-- ==== Sys2Proof/Word.lean ====
section
/-! DEFINITION. The byte, the only word the block handles (00_scope.md R10), and sequences of bytes. -/

namespace Sys2Proof

/-- `Byte`: an unsigned 8-bit value, bit 7 the most significant (R10). -/
abbrev Byte := BitVec 8

/-- `Bytes`: a finite sequence of bytes; index 0 is the first byte delivered (R10, R51). -/
abbrev Bytes := List Byte

end Sys2Proof
end

