-- ==== Sys2Proof/Config.lean ====
section
/-! DEFINITION. The implementation parameters of 00_scope.md R9 that are values. `N_SESSIONS` is the number of
sessions a state holds, and `ARB` is the choice of turns in a state (log entries 1 and 2). -/

namespace Sys2Proof

/-- `V1_0x19_POLICY`: what code 0x19 means in a V1 session (R9, R76). -/
inductive Policy where
  | accept
  | reject
  deriving DecidableEq, Repr

/-- `ApplyErr`: what the write collaborator reports with a failure. The block copies it and never reads it
(R9, R185). DESIGN CHOICE (log entry 7): a token named by a natural number. Safe: nothing computes with it. -/
structure ApplyErr where
  token : Nat
  deriving DecidableEq, Repr

/-- The parameters one block is built with (R9). No step changes them. -/
structure Config where
  policy   : Policy
  replyPad : Byte
  deriving DecidableEq, Repr

/-- The reference values of R9: ACCEPT and 0x00. -/
def Config.reference : Config where
  policy := .accept
  replyPad := 0x00

/-- The values `N_SESSIONS` may have: a natural number of at least 1 (R9, R216). -/
abbrev SessionCount := { n : Nat // 1 ≤ n }

/-- The reference value of `N_SESSIONS` (R9). -/
def Config.referenceSessions : SessionCount := ⟨1, Nat.le_refl 1⟩

end Sys2Proof
end

