-- ==== Sys2Proof/Machine/Protocol.lean ====
section
/-! DEFINITION. The closed enumerations of the protocol: the two versions, the 27 resolved commands, the inputs of
the bus side, and the errors of 60_exceptions.md. -/

namespace Sys2Proof

/-- ProtocolVersion: V1 is protocol number 54, V2 is protocol number 62; there is no other (R2, R14). -/
inductive Version where
  | v1
  | v2
  deriving DecidableEq, Repr

/-- The resolved commands (tags), in the order of the command map (R74). Code 0x16 has two tags, one for each
version (R75); a tag is what `CMD[s]` and an apply request carry, never the raw code (R161). -/
inductive Tag where
  | timeUpdate
  | getOptions
  | setOption1224
  | setOptionBlankLead
  | setOptionScrollback
  | setOptionSuppressAcp
  | setOptionDateFormat
  | setOptionDayBlanking
  | setOptionBlankStart
  | setOptionBlankEnd
  | setOptionFadeSteps
  | setOptionScrollSteps
  | setOptionBacklightMode
  | setOptionRedChannel
  | setOptionGreenChannel
  | setOptionBlueChannel
  | setOptionCycleSpeed
  | showIpAddr
  | setOptionFade
  | setOptionUseLdr
  | setOptionBlankMode
  | setOptionSlotsMode
  | setOptionPirTimeout
  | setOptionMinDimV1
  | showValue
  | showValueFormat
  | setOptionMinDimV2
  deriving DecidableEq, Repr

/-- An input of a session's bus side (R31): a protocol number on the negotiation port, or a delivered frame of any
length, its bus address byte already removed. -/
inductive BusInput where
  | negotiate (pn : Byte)
  | frame (F : Bytes)
  deriving DecidableEq, Repr

/-- The errors of 60_exceptions.md, with the fields their records carry (R200 to R206). -/
inductive Err where
  /-- R201: a negotiation input that is no protocol number. -/
  | unsupportedProtocol (pn : Byte)
  /-- R202: a frame whose length is not the frame size of the session's version. -/
  | frameLengthMismatch (expected actual : Nat)
  /-- R203: a frame of the right length whose code resolves to no command. -/
  | unknownCommand (code : Byte)
  /-- R204: a snapshot that does not fit a reply. -/
  | payloadTooLarge (needed capacity : Nat)
  /-- R205: the write collaborator's failure, with the command it answers. -/
  | applyError (tag : Tag) (e : ApplyErr)
  /-- R206: a frame in a session with no active version. -/
  | noSession (actual : Nat)
  deriving DecidableEq, Repr

/-- The result of a pure function of the block that either accepts its argument or names an error
(`negotiateVersion` R100, `decode` R110, `encodeReply` R170). -/
inductive Verdict (α : Type) where
  | accepted (a : α)
  | rejected (e : Err)
  deriving DecidableEq, Repr

/-- Continue with the accepted value; keep the error. -/
def Verdict.map {α β : Type} (f : α → β) : Verdict α → Verdict β
  | .accepted a => .accepted (f a)
  | .rejected e => .rejected e

end Sys2Proof
end

