-- ==== Sys2Proof/Machine/Tables.lean ====
section
/-! DEFINITION. The read-only tables: `VERSION_TABLE` (R21), `CODE_TABLE` (R22, content R74 to R77) and the fixed
constants of R8. They have no writer and no reset value. -/

namespace Sys2Proof

/-- The 7-bit bus slave address (R3, R8). The transport removes it; the block never sees it (R50). -/
def slaveAddr : BitVec 7 := 0x69

/-- `PN(v)` (R8, R21). -/
def protocolNumber : Version → Byte
  | .v1 => 0x36
  | .v2 => 0x3E

/-- `FS(v)`, the frame size in bytes (R8, R21). -/
def frameSize : Version → Nat
  | .v1 => 22
  | .v2 => 24

/-- `PL(v) = FS(v) - 1`, the payload length in bytes (R8, R21, R70). -/
def payloadLength (v : Version) : Nat := frameSize v - 1

/-- `CODE_MAX`, the highest defined command code (R8). -/
def codeMax : Byte := 0x19

/-- The code column of the command map (R74). -/
def Tag.code : Tag → Byte
  | .timeUpdate => 0x00
  | .getOptions => 0x01
  | .setOption1224 => 0x02
  | .setOptionBlankLead => 0x03
  | .setOptionScrollback => 0x04
  | .setOptionSuppressAcp => 0x05
  | .setOptionDateFormat => 0x06
  | .setOptionDayBlanking => 0x07
  | .setOptionBlankStart => 0x08
  | .setOptionBlankEnd => 0x09
  | .setOptionFadeSteps => 0x0A
  | .setOptionScrollSteps => 0x0B
  | .setOptionBacklightMode => 0x0C
  | .setOptionRedChannel => 0x0D
  | .setOptionGreenChannel => 0x0E
  | .setOptionBlueChannel => 0x0F
  | .setOptionCycleSpeed => 0x10
  | .showIpAddr => 0x11
  | .setOptionFade => 0x12
  | .setOptionUseLdr => 0x13
  | .setOptionBlankMode => 0x14
  | .setOptionSlotsMode => 0x15
  | .setOptionPirTimeout => 0x16
  | .setOptionMinDimV1 => 0x16
  | .showValue => 0x17
  | .showValueFormat => 0x18
  | .setOptionMinDimV2 => 0x19

/-- The class column of the command map (R74, R130): every tag but GET_OPTIONS is a write command. -/
def Tag.isWrite : Tag → Bool
  | .getOptions => false
  | .timeUpdate => true
  | .setOption1224 => true
  | .setOptionBlankLead => true
  | .setOptionScrollback => true
  | .setOptionSuppressAcp => true
  | .setOptionDateFormat => true
  | .setOptionDayBlanking => true
  | .setOptionBlankStart => true
  | .setOptionBlankEnd => true
  | .setOptionFadeSteps => true
  | .setOptionScrollSteps => true
  | .setOptionBacklightMode => true
  | .setOptionRedChannel => true
  | .setOptionGreenChannel => true
  | .setOptionBlueChannel => true
  | .setOptionCycleSpeed => true
  | .showIpAddr => true
  | .setOptionFade => true
  | .setOptionUseLdr => true
  | .setOptionBlankMode => true
  | .setOptionSlotsMode => true
  | .setOptionPirTimeout => true
  | .setOptionMinDimV1 => true
  | .showValue => true
  | .showValueFormat => true
  | .setOptionMinDimV2 => true

/-- The rows of the command map other than 0x16, read by code (R74): those that map one to one. -/
def oneToOneTag (code : Byte) : Option Tag :=
  match code.toNat with
  | 0x00 => some .timeUpdate
  | 0x01 => some .getOptions
  | 0x02 => some .setOption1224
  | 0x03 => some .setOptionBlankLead
  | 0x04 => some .setOptionScrollback
  | 0x05 => some .setOptionSuppressAcp
  | 0x06 => some .setOptionDateFormat
  | 0x07 => some .setOptionDayBlanking
  | 0x08 => some .setOptionBlankStart
  | 0x09 => some .setOptionBlankEnd
  | 0x0A => some .setOptionFadeSteps
  | 0x0B => some .setOptionScrollSteps
  | 0x0C => some .setOptionBacklightMode
  | 0x0D => some .setOptionRedChannel
  | 0x0E => some .setOptionGreenChannel
  | 0x0F => some .setOptionBlueChannel
  | 0x10 => some .setOptionCycleSpeed
  | 0x11 => some .showIpAddr
  | 0x12 => some .setOptionFade
  | 0x13 => some .setOptionUseLdr
  | 0x14 => some .setOptionBlankMode
  | 0x15 => some .setOptionSlotsMode
  | 0x17 => some .showValue
  | 0x18 => some .showValueFormat
  | 0x19 => some .setOptionMinDimV2
  | _ => none

/-- `resolve(code, v)` (R113): the lookup in `CODE_TABLE`; `none` is UNKNOWN. Code 0x16 is resolved by the version
(R75, R114), code 0x19 under V1 by the policy (R76, R115), and every other defined code one to one. -/
def resolve (policy : Policy) (code : Byte) (v : Version) : Option Tag :=
  if code = 0x16 then
    match v with
    | .v2 => some .setOptionPirTimeout
    | .v1 => some .setOptionMinDimV1
  else if code = 0x19 ∧ v = .v1 then
    match policy with
    | .accept => some .setOptionMinDimV2
    | .reject => none
  else if code ≤ codeMax then oneToOneTag code
  else none

end Sys2Proof
end

