-- ==== Sys2Proof/Machine/Operands.lean ====
section
/-! DEFINITION. The operand forms: the two fields of a command frame (R70), and the reply frame's layout (R79). The
block has no immediates, no register operands and no addressing modes (R71). -/

namespace Sys2Proof

/-- The CODE field, the whole of byte 0 (R70, R73). It is read only from a frame of the right length, which is never
empty; on the empty sequence this gives 0, which nothing uses. -/
def codeOf (F : Bytes) : Byte := F.headD 0

/-- The PAYLOAD field, bytes 1 to the last, unchanged and in order (R71, R112). -/
def payloadOf (F : Bytes) : Bytes := F.drop 1

/-- The frame that a command with its payload stands for (R70, R80). -/
def commandFrame (tag : Tag) (P : Bytes) : Bytes := tag.code :: P

/-- `encodeReply(B, v)` (R170): the GET_OPTIONS code, the snapshot, then padding up to the frame size (R79, R172);
a snapshot of more than `FS(v) - 1` bytes is refused, never cut (R171). -/
def encodeReply (pad : Byte) (B : Bytes) (v : Version) : Verdict Bytes :=
  if B.length > frameSize v - 1 then .rejected (.payloadTooLarge (B.length + 1) (frameSize v))
  else .accepted (0x01 :: B ++ List.replicate (frameSize v - 1 - B.length) pad)

end Sys2Proof
end

