-- ==== Sys2Proof/Syntax.lean ====
section
/-! DEFINITION. The instructions: one constructor for each row of spec/opcode_table.json. -/

namespace Sys2Proof

/-- The inputs the opcode table lists: the two protocol numbers that select a version (R78) and the 27 resolved
commands (R74). `k` is the session at whose port the input arrives (R31); `P` is the opaque payload (R71). A command
with its payload stands for the frame whose byte 0 is the command's code (R80). -/
inductive Instr where
  /-- NEGOTIATE_V1: the negotiation byte 0x36 (R101). -/
  | negotiateV1 (k : Nat)
  /-- NEGOTIATE_V2: the negotiation byte 0x3E (R101). -/
  | negotiateV2 (k : Nat)
  /-- TIME_UPDATE: code 0x00 (R133). -/
  | timeUpdate (k : Nat) (P : Bytes)
  /-- GET_OPTIONS: code 0x01 (R134). -/
  | getOptions (k : Nat) (P : Bytes)
  /-- SET_OPTION_12_24: code 0x02 (R135). -/
  | setOption1224 (k : Nat) (P : Bytes)
  /-- SET_OPTION_BLANK_LEAD: code 0x03 (R136). -/
  | setOptionBlankLead (k : Nat) (P : Bytes)
  /-- SET_OPTION_SCROLLBACK: code 0x04 (R137). -/
  | setOptionScrollback (k : Nat) (P : Bytes)
  /-- SET_OPTION_SUPPRESS_ACP: code 0x05 (R138). -/
  | setOptionSuppressAcp (k : Nat) (P : Bytes)
  /-- SET_OPTION_DATE_FORMAT: code 0x06 (R139). -/
  | setOptionDateFormat (k : Nat) (P : Bytes)
  /-- SET_OPTION_DAY_BLANKING: code 0x07 (R140). -/
  | setOptionDayBlanking (k : Nat) (P : Bytes)
  /-- SET_OPTION_BLANK_START: code 0x08 (R141). -/
  | setOptionBlankStart (k : Nat) (P : Bytes)
  /-- SET_OPTION_BLANK_END: code 0x09 (R142). -/
  | setOptionBlankEnd (k : Nat) (P : Bytes)
  /-- SET_OPTION_FADE_STEPS: code 0x0A (R143). -/
  | setOptionFadeSteps (k : Nat) (P : Bytes)
  /-- SET_OPTION_SCROLL_STEPS: code 0x0B (R144). -/
  | setOptionScrollSteps (k : Nat) (P : Bytes)
  /-- SET_OPTION_BACKLIGHT_MODE: code 0x0C (R145). -/
  | setOptionBacklightMode (k : Nat) (P : Bytes)
  /-- SET_OPTION_RED_CHANNEL: code 0x0D (R146). -/
  | setOptionRedChannel (k : Nat) (P : Bytes)
  /-- SET_OPTION_GREEN_CHANNEL: code 0x0E (R147). -/
  | setOptionGreenChannel (k : Nat) (P : Bytes)
  /-- SET_OPTION_BLUE_CHANNEL: code 0x0F (R148). -/
  | setOptionBlueChannel (k : Nat) (P : Bytes)
  /-- SET_OPTION_CYCLE_SPEED: code 0x10 (R149). -/
  | setOptionCycleSpeed (k : Nat) (P : Bytes)
  /-- SHOW_IP_ADDR: code 0x11 (R150). -/
  | showIpAddr (k : Nat) (P : Bytes)
  /-- SET_OPTION_FADE: code 0x12 (R151). -/
  | setOptionFade (k : Nat) (P : Bytes)
  /-- SET_OPTION_USE_LDR: code 0x13 (R152). -/
  | setOptionUseLdr (k : Nat) (P : Bytes)
  /-- SET_OPTION_BLANK_MODE: code 0x14 (R153). -/
  | setOptionBlankMode (k : Nat) (P : Bytes)
  /-- SET_OPTION_SLOTS_MODE: code 0x15 (R154). -/
  | setOptionSlotsMode (k : Nat) (P : Bytes)
  /-- SET_OPTION_PIR_TIMEOUT: code 0x16 (R155). -/
  | setOptionPirTimeout (k : Nat) (P : Bytes)
  /-- SET_OPTION_MIN_DIM_V1: code 0x16 (R156). -/
  | setOptionMinDimV1 (k : Nat) (P : Bytes)
  /-- SHOW_VALUE: code 0x17 (R157). -/
  | showValue (k : Nat) (P : Bytes)
  /-- SHOW_VALUE_FORMAT: code 0x18 (R158). -/
  | showValueFormat (k : Nat) (P : Bytes)
  /-- SET_OPTION_MIN_DIM_V2: code 0x19 (R159). -/
  | setOptionMinDimV2 (k : Nat) (P : Bytes)
  deriving DecidableEq, Repr

/-- The session at whose port the input arrives. -/
def Instr.session : Instr → Nat
  | .negotiateV1 k => k
  | .negotiateV2 k => k
  | .timeUpdate k _ => k
  | .getOptions k _ => k
  | .setOption1224 k _ => k
  | .setOptionBlankLead k _ => k
  | .setOptionScrollback k _ => k
  | .setOptionSuppressAcp k _ => k
  | .setOptionDateFormat k _ => k
  | .setOptionDayBlanking k _ => k
  | .setOptionBlankStart k _ => k
  | .setOptionBlankEnd k _ => k
  | .setOptionFadeSteps k _ => k
  | .setOptionScrollSteps k _ => k
  | .setOptionBacklightMode k _ => k
  | .setOptionRedChannel k _ => k
  | .setOptionGreenChannel k _ => k
  | .setOptionBlueChannel k _ => k
  | .setOptionCycleSpeed k _ => k
  | .showIpAddr k _ => k
  | .setOptionFade k _ => k
  | .setOptionUseLdr k _ => k
  | .setOptionBlankMode k _ => k
  | .setOptionSlotsMode k _ => k
  | .setOptionPirTimeout k _ => k
  | .setOptionMinDimV1 k _ => k
  | .showValue k _ => k
  | .showValueFormat k _ => k
  | .setOptionMinDimV2 k _ => k

/-- The resolved command with its payload, for the rows that are commands. -/
def Instr.command : Instr → Option (Tag × Bytes)
  | .negotiateV1 _ => none
  | .negotiateV2 _ => none
  | .timeUpdate _ P => some (.timeUpdate, P)
  | .getOptions _ P => some (.getOptions, P)
  | .setOption1224 _ P => some (.setOption1224, P)
  | .setOptionBlankLead _ P => some (.setOptionBlankLead, P)
  | .setOptionScrollback _ P => some (.setOptionScrollback, P)
  | .setOptionSuppressAcp _ P => some (.setOptionSuppressAcp, P)
  | .setOptionDateFormat _ P => some (.setOptionDateFormat, P)
  | .setOptionDayBlanking _ P => some (.setOptionDayBlanking, P)
  | .setOptionBlankStart _ P => some (.setOptionBlankStart, P)
  | .setOptionBlankEnd _ P => some (.setOptionBlankEnd, P)
  | .setOptionFadeSteps _ P => some (.setOptionFadeSteps, P)
  | .setOptionScrollSteps _ P => some (.setOptionScrollSteps, P)
  | .setOptionBacklightMode _ P => some (.setOptionBacklightMode, P)
  | .setOptionRedChannel _ P => some (.setOptionRedChannel, P)
  | .setOptionGreenChannel _ P => some (.setOptionGreenChannel, P)
  | .setOptionBlueChannel _ P => some (.setOptionBlueChannel, P)
  | .setOptionCycleSpeed _ P => some (.setOptionCycleSpeed, P)
  | .showIpAddr _ P => some (.showIpAddr, P)
  | .setOptionFade _ P => some (.setOptionFade, P)
  | .setOptionUseLdr _ P => some (.setOptionUseLdr, P)
  | .setOptionBlankMode _ P => some (.setOptionBlankMode, P)
  | .setOptionSlotsMode _ P => some (.setOptionSlotsMode, P)
  | .setOptionPirTimeout _ P => some (.setOptionPirTimeout, P)
  | .setOptionMinDimV1 _ P => some (.setOptionMinDimV1, P)
  | .showValue _ P => some (.showValue, P)
  | .showValueFormat _ P => some (.showValueFormat, P)
  | .setOptionMinDimV2 _ P => some (.setOptionMinDimV2, P)

end Sys2Proof
end

