-- ==== Sys2Proof/WellFormed.lean ====
section
/-! DEFINITION. When an instruction can stand in a session of a given version: its payload has the version's length
and its command exists under the version. The session's number is a matter of the state and is checked there. -/

namespace Sys2Proof

/-- The command exists under the version (R74): 0x16 has one tag for each version (R75), and SET_OPTION_MIN_DIM_V2
exists under V1 only where the policy accepts it (R76). -/
def Tag.inVersion (policy : Policy) (v : Version) : Tag → Bool
  | .setOptionPirTimeout => v == .v2
  | .setOptionMinDimV1 => v == .v1
  | .setOptionMinDimV2 => v == .v2 || policy == .accept
  | _ => true

/-- The payload has the length of the version (R70). -/
def payloadFits (v : Version) (P : Bytes) : Bool := P.length == payloadLength v

/-- An instruction that a session of version `v` can receive. A negotiation input needs nothing. -/
def Instr.wellFormed (policy : Policy) (v : Version) (i : Instr) : Bool :=
  match i.command with
  | none => true
  | some (tag, P) => payloadFits v P && tag.inVersion policy v

end Sys2Proof
end

