-- ==== Sys2Proof/Decode.lean ====
section
/-! DEFINITION. Decoding: `negotiateVersion` (R100), `decode` (R110) and the input decoder over them, total on every
byte and every sequence of bytes, and the encoder. -/

namespace Sys2Proof

/-- `negotiateVersion(pn)` (R100): exact equality with a protocol number, no fallback. -/
def negotiateVersion (pn : Byte) : Verdict Version :=
  if pn = protocolNumber .v1 then .accepted .v1
  else if pn = protocolNumber .v2 then .accepted .v2
  else .rejected (.unsupportedProtocol pn)

/-- `decode(F, v)` (R110): the length first, before any byte is read (R111, R208), then the code (R113, R116). -/
def decodeFrame (policy : Policy) (F : Bytes) (v : Version) : Verdict (Tag × Bytes) :=
  if F.length ≠ frameSize v then .rejected (.frameLengthMismatch (frameSize v) F.length)
  else
    match resolve policy (codeOf F) v with
    | none => .rejected (.unknownCommand (codeOf F))
    | some tag => .accepted (tag, payloadOf F)

/-- Decoding as the receive step does it (R117): with no active version the frame is not examined (R118). -/
def decodeFor (policy : Policy) (ver : Option Version) (F : Bytes) : Verdict (Tag × Bytes) :=
  match ver with
  | none => .rejected (.noSession F.length)
  | some v => decodeFrame policy F v

/-- The instruction a version selected by negotiation stands for (R78). -/
def Instr.ofVersion (k : Nat) : Version → Instr
  | .v1 => .negotiateV1 k
  | .v2 => .negotiateV2 k

/-- The instruction a resolved command stands for (R74). -/
def Instr.ofCommand (k : Nat) (c : Tag × Bytes) : Instr :=
  match c.1 with
  | .timeUpdate => .timeUpdate k c.2
  | .getOptions => .getOptions k c.2
  | .setOption1224 => .setOption1224 k c.2
  | .setOptionBlankLead => .setOptionBlankLead k c.2
  | .setOptionScrollback => .setOptionScrollback k c.2
  | .setOptionSuppressAcp => .setOptionSuppressAcp k c.2
  | .setOptionDateFormat => .setOptionDateFormat k c.2
  | .setOptionDayBlanking => .setOptionDayBlanking k c.2
  | .setOptionBlankStart => .setOptionBlankStart k c.2
  | .setOptionBlankEnd => .setOptionBlankEnd k c.2
  | .setOptionFadeSteps => .setOptionFadeSteps k c.2
  | .setOptionScrollSteps => .setOptionScrollSteps k c.2
  | .setOptionBacklightMode => .setOptionBacklightMode k c.2
  | .setOptionRedChannel => .setOptionRedChannel k c.2
  | .setOptionGreenChannel => .setOptionGreenChannel k c.2
  | .setOptionBlueChannel => .setOptionBlueChannel k c.2
  | .setOptionCycleSpeed => .setOptionCycleSpeed k c.2
  | .showIpAddr => .showIpAddr k c.2
  | .setOptionFade => .setOptionFade k c.2
  | .setOptionUseLdr => .setOptionUseLdr k c.2
  | .setOptionBlankMode => .setOptionBlankMode k c.2
  | .setOptionSlotsMode => .setOptionSlotsMode k c.2
  | .setOptionPirTimeout => .setOptionPirTimeout k c.2
  | .setOptionMinDimV1 => .setOptionMinDimV1 k c.2
  | .showValue => .showValue k c.2
  | .showValueFormat => .showValueFormat k c.2
  | .setOptionMinDimV2 => .setOptionMinDimV2 k c.2

/-- The decoder of the bus side: the input at the port of session `k`, whose active version is `ver`, becomes an
instruction or is rejected by the name of its error. -/
def decodeInput (policy : Policy) (ver : Option Version) (k : Nat) : BusInput → Verdict Instr
  | .negotiate pn => (negotiateVersion pn).map (Instr.ofVersion k)
  | .frame F => (decodeFor policy ver F).map (Instr.ofCommand k)

/-- The encoder (R70, R74, R78, R80): the input an instruction stands for. -/
def encode : Instr → BusInput
  | .negotiateV1 _ => .negotiate (protocolNumber .v1)
  | .negotiateV2 _ => .negotiate (protocolNumber .v2)
  | .timeUpdate _ P => .frame (commandFrame .timeUpdate P)
  | .getOptions _ P => .frame (commandFrame .getOptions P)
  | .setOption1224 _ P => .frame (commandFrame .setOption1224 P)
  | .setOptionBlankLead _ P => .frame (commandFrame .setOptionBlankLead P)
  | .setOptionScrollback _ P => .frame (commandFrame .setOptionScrollback P)
  | .setOptionSuppressAcp _ P => .frame (commandFrame .setOptionSuppressAcp P)
  | .setOptionDateFormat _ P => .frame (commandFrame .setOptionDateFormat P)
  | .setOptionDayBlanking _ P => .frame (commandFrame .setOptionDayBlanking P)
  | .setOptionBlankStart _ P => .frame (commandFrame .setOptionBlankStart P)
  | .setOptionBlankEnd _ P => .frame (commandFrame .setOptionBlankEnd P)
  | .setOptionFadeSteps _ P => .frame (commandFrame .setOptionFadeSteps P)
  | .setOptionScrollSteps _ P => .frame (commandFrame .setOptionScrollSteps P)
  | .setOptionBacklightMode _ P => .frame (commandFrame .setOptionBacklightMode P)
  | .setOptionRedChannel _ P => .frame (commandFrame .setOptionRedChannel P)
  | .setOptionGreenChannel _ P => .frame (commandFrame .setOptionGreenChannel P)
  | .setOptionBlueChannel _ P => .frame (commandFrame .setOptionBlueChannel P)
  | .setOptionCycleSpeed _ P => .frame (commandFrame .setOptionCycleSpeed P)
  | .showIpAddr _ P => .frame (commandFrame .showIpAddr P)
  | .setOptionFade _ P => .frame (commandFrame .setOptionFade P)
  | .setOptionUseLdr _ P => .frame (commandFrame .setOptionUseLdr P)
  | .setOptionBlankMode _ P => .frame (commandFrame .setOptionBlankMode P)
  | .setOptionSlotsMode _ P => .frame (commandFrame .setOptionSlotsMode P)
  | .setOptionPirTimeout _ P => .frame (commandFrame .setOptionPirTimeout P)
  | .setOptionMinDimV1 _ P => .frame (commandFrame .setOptionMinDimV1 P)
  | .showValue _ P => .frame (commandFrame .showValue P)
  | .showValueFormat _ P => .frame (commandFrame .showValueFormat P)
  | .setOptionMinDimV2 _ P => .frame (commandFrame .setOptionMinDimV2 P)

/-- The bytes of `w`, lowest first: byte `i` is bits `8 i + 7 .. 8 i`. -/
def bytesOfWord (w : Nat) : Nat → Bytes
  | 0 => []
  | n + 1 => BitVec.ofNat 8 w :: bytesOfWord (w / 256) n

/-- The input that a row of the opcode table stands for (log entry 8): one byte that is a protocol number is a
negotiation input; anything else is a frame, with zero bytes up to the longest frame, that of V2. No command code
equals a protocol number (R74, R78), so no row is read as the other kind. -/
def tableInput (nbits w : Nat) : BusInput :=
  match negotiateVersion (BitVec.ofNat 8 w), nbits with
  | .accepted _, 8 => .negotiate (BitVec.ofNat 8 w)
  | _, _ =>
    let F := bytesOfWord w (nbits / 8)
    .frame (F ++ List.replicate (frameSize .v2 - F.length) 0)

/-- What the decoder reads from a table word: at session 0, a frame under V2, the reference parameters. DESIGN CHOICE
(log entry 8): V2, so 0x16 reads as SET_OPTION_PIR_TIMEOUT. Safe: it only serves the host's questions. -/
def decodeTableWord (nbits w : Nat) : Option Instr :=
  match decodeInput Config.reference.policy (some .v2) 0 (tableInput nbits w) with
  | .accepted i => some i
  | .rejected _ => none

end Sys2Proof
end

