-- ==== Sys2Proof/Machine/State.lean ====
section
/-! DEFINITION. The state: the per-session registers R23 to R28, the shared registers R29 and R30, the parameters of
R9, and two fields of the model's own (the inputs at each session's port, and the turns that are to come). -/

namespace Sys2Proof.Machine

/-- `PHASE[s]` (R24). -/
inductive Phase where
  /-- awaiting the next input -/
  | idle
  /-- a decoded command waits for the serializer -/
  | waitGrant
  /-- an apply request is outstanding at the write collaborator -/
  | inApply
  /-- a snapshot request is outstanding at the read collaborator -/
  | inSnapshot
  deriving DecidableEq, Repr

/-- The status records (R200): three successes, and one record for each error. -/
inductive StatusRec where
  | okNegotiated (v : Version)
  | okApplied (tag : Tag)
  | okReply
  | error (e : Err)
  deriving DecidableEq, Repr

/-- The write collaborator's answer `r` (R31, R54). -/
inductive ApplyResult where
  | ok
  | err (e : ApplyErr)
  deriving DecidableEq, Repr

/-- The events of the log (R30). `applyIssued` and `snapshotIssued` record the requests sent through the ports
`ApplyReq` and `SnapshotReq` (R31, R183). -/
inductive Event where
  | negotiated (k : Nat) (v : Version)
  | status (k : Nat) (st : StatusRec)
  | applyIssued (k : Nat) (tag : Tag) (P : Bytes)
  | applyReturned (k : Nat) (r : ApplyResult)
  | snapshotIssued (k : Nat)
  | snapshotReturned (k : Nat) (B : Bytes)
  | reply (k : Nat) (R : Bytes)
  | resetTaken
  deriving DecidableEq, Repr

/-- Whose step is next, with its draw (R13, R20). DESIGN CHOICE (log entry 2): the interleaving, the arbitration and
the collaborators' answers are data, so a statement about every state is one about every choice. Safe. -/
inductive Turn where
  /-- the bus side of session `k` takes its next input (R101, R117) -/
  | bus (k : Nat)
  /-- the serializer grants session `k` (R182) -/
  | grant (k : Nat)
  /-- the write collaborator answers session `k`'s request with `r` (R184) -/
  | applyAck (k : Nat) (r : ApplyResult)
  /-- the read collaborator answers session `k`'s request with the bytes `B` (R173) -/
  | snapshotAck (k : Nat) (B : Bytes)
  /-- the platform resets the block (R230) -/
  | reset
  deriving DecidableEq, Repr

/-- The session a turn belongs to; a reset belongs to none. -/
def Turn.session? : Turn → Option Nat
  | .bus k => some k
  | .grant k => some k
  | .applyAck k _ => some k
  | .snapshotAck k _ => some k
  | .reset => none

/-- One session: its registers, and the inputs at its port. -/
structure Session where
  /-- `VER[s]` (R23) -/
  ver     : Option Version
  /-- `PHASE[s]` (R24) -/
  phase   : Phase
  /-- `CMD[s]` (R25) -/
  cmd     : Option Tag
  /-- `PAYLOAD[s]` (R26) -/
  payload : Option Bytes
  /-- `STATUS[s]` (R27) -/
  status  : Option StatusRec
  /-- `REPLY[s]` (R28) -/
  reply   : Option Bytes
  /-- the inputs not yet taken, oldest first, held ones among them (R31, R236; log entry 3) -/
  inputs  : List BusInput
  deriving DecidableEq, Repr

/-- Every register of a session at its reset value (R230), with the given inputs at its port. -/
def Session.cleared (inputs : List BusInput) : Session where
  ver := none
  phase := .idle
  cmd := none
  payload := none
  status := none
  reply := none
  inputs := inputs

/-- The state of the block. -/
structure State where
  /-- the parameters of R9; no step writes them -/
  cfg      : Config
  /-- the sessions 0 .. N_SESSIONS-1 (R216), at least one (R9) -/
  sessions : List Session
  /-- `SER_OWNER` (R29) -/
  serOwner : Option Nat
  /-- `EVENTS`, oldest first (R30) -/
  events   : List Event
  /-- the turns to come, the next one first (log entry 2) -/
  turns    : List Turn
  deriving DecidableEq, Repr

/-- `N_SESSIONS` (R9), at least 1 in every state of `State.Inv`. -/
def State.nSessions (s : State) : Nat := s.sessions.length

/-- A block of `n` sessions in the reset state of R230, before its first step: the log is empty (R30), nothing is at
a port, and no turn is to come. -/
def State.initial (cfg : Config) (n : SessionCount) : State where
  cfg := cfg
  sessions := List.replicate n.val (Session.cleared [])
  serOwner := none
  events := []
  turns := []

/-- The block right after reset, with the reference parameters of R9. -/
def State.reset : State := State.initial Config.reference Config.referenceSessions

/-- Why the machine stops. No error of the spec is a fault (R219). -/
inductive Fault where
  /-- Raised by every instruction and every turn that names a session outside `0 .. N_SESSIONS-1` (R20 gives the
  block no such session). Safe: the block has no such step (log entry 10). -/
  | noSuchSession
  deriving DecidableEq, Repr

/-- Why an instruction has no meaning. The spec refuses no form of input (93_implementation_defined.md U20). -/
inductive Refusal where
  /-- Raised by an arm of `exec` whose instruction has no meaning yet; no arm is one. Safe. -/
  | notModelled (mnemonic : String)
  deriving DecidableEq, Repr

/-- The three outcomes of a step of this machine. -/
abbrev Out := Host.Outcome State Fault Refusal

end Sys2Proof.Machine
end

