-- ==== Sys2Proof/Machine/Ops.lean ====
section
/-! DEFINITION. The named operations on the registers: reading and writing a session, the event log, `raise` and
`complete` (R12), holding an input (R236), the receive step (R117) and the negotiation step (R101). -/

namespace Sys2Proof.Machine

/-- Session `k`, where the block has it (R20). -/
def State.session? (s : State) (k : Nat) : Option Session := s.sessions[k]?

/-- Change session `k`; the one operation that writes a session's registers. -/
def updSession (k : Nat) (f : Session → Session) (s : State) : State :=
  { s with sessions := s.sessions.modify k f }

/-- `emit`: append events to the log (R11, R30). -/
def emit (es : List Event) (s : State) : State :=
  { s with events := s.events ++ es }

/-- The serializer's owner after session `k` has released it, if `k` held it (R12, R29). -/
def released (k : Nat) (owner : Option Nat) : Option Nat :=
  if owner = some k then none else owner

/-- Release the serializer if session `k` holds it (R12, R29). -/
def releaseSerializer (k : Nat) (s : State) : State :=
  { s with serOwner := released k s.serOwner }

/-- What `raise` and `complete` do to the session's registers: STATUS is written, CMD and PAYLOAD are cleared, and the
session is IDLE again (R12, R25, R26, R120). -/
def Session.finish (st : StatusRec) (ss : Session) : Session :=
  { ss with status := some st, phase := .idle, cmd := none, payload := none }

/-- `complete(s, st)` (R12): the status, its event, the clean-up, and the release of the serializer. -/
def complete (k : Nat) (st : StatusRec) (s : State) : State :=
  releaseSerializer k (emit [.status k st] (updSession k (Session.finish st) s))

/-- The clean-up 60_exceptions.md gives for an error on `VER`: UnsupportedProtocol ends the session (R103, R201), and
no other error touches it (R207). -/
def Session.cleanup : Err → Session → Session
  | .unsupportedProtocol _, ss => { ss with ver := none }
  | .frameLengthMismatch _ _, ss => ss
  | .unknownCommand _, ss => ss
  | .payloadTooLarge _ _, ss => ss
  | .applyError _ _, ss => ss
  | .noSession _, ss => ss

/-- `raise Err(info)` (R12, R210): taking an error. The session is in IDLE at once, so there is no return from an
error (R211). -/
def raise (k : Nat) (e : Err) (s : State) : State :=
  complete k (.error e) (updSession k (Session.cleanup e) s)

/-- What taking an input does first: the reply of the command before it is lost (R28, R175). -/
def clearReply (k : Nat) (s : State) : State :=
  updSession k (fun ss => { ss with reply := none }) s

/-- An input that is taken and found wrong (R101, R117): the reply is cleared and the error raised. -/
def rejectInput (k : Nat) (e : Err) (s : State) : State :=
  raise k e (clearReply k s)

/-- An input that reaches a busy session is held behind those already held (R105, R117, R236; log entry 21). -/
def holdInput (k : Nat) (inp : BusInput) (s : State) : State :=
  updSession k (fun ss => { ss with inputs := ss.inputs ++ [inp] }) s

/-- A decoded command is put in flight (R117): it waits for the serializer (R130). -/
def postCommand (k : Nat) (c : Tag × Bytes) (s : State) : State :=
  updSession k (fun ss => { ss with cmd := some c.1, payload := some c.2, phase := .waitGrant }) (clearReply k s)

/-- `Frame(s, F)` (R117): taken in IDLE, held otherwise. -/
def receiveFrame (k : Nat) (F : Bytes) (s : State) : Out :=
  match s.session? k with
  | none => .fault .noSuchSession
  | some ss =>
    if ss.phase = .idle then
      match decodeFor s.cfg.policy ss.ver F with
      | .rejected e => .next (rejectInput k e s)
      | .accepted c => .next (postCommand k c s)
    else .next (holdInput k (.frame F) s)

/-- What a successful negotiation does (R101, R104). -/
def setVersion (k : Nat) (v : Version) (s : State) : State :=
  complete k (.okNegotiated v)
    (emit [.negotiated k v] (updSession k (fun ss => { ss with ver := some v }) (clearReply k s)))

/-- `Negotiate(s, pn)` (R101): taken in IDLE, held otherwise (R105). -/
def receiveNegotiation (k : Nat) (pn : Byte) (s : State) : Out :=
  match s.session? k with
  | none => .fault .noSuchSession
  | some ss =>
    if ss.phase = .idle then
      match negotiateVersion pn with
      | .rejected e => .next (rejectInput k e s)
      | .accepted v => .next (setVersion k v s)
    else .next (holdInput k (.negotiate pn) s)

end Sys2Proof.Machine
end

