-- ==== Sys2Proof/Machine/Platform.lean ====
section
/-! DEFINITION. The platform's input `Reset()` (R230 to R232). -/

namespace Sys2Proof.Machine

/-- `Reset()` (R230): every register of every session and SER_OWNER at its reset value, the log kept and extended by
`ResetTaken`. An outstanding request is forgotten (R232). The parameters stay, and so do the inputs at the ports, since
a held input is never dropped (DEDUCED from R236 and R244, log entry 5; unsafe: the spec does not say what a reset does
to an input that is held). -/
def resetBlock (s : State) : State :=
  { s with
    sessions := s.sessions.map (fun ss => Session.cleared ss.inputs)
    serOwner := none
    events := s.events ++ [.resetTaken] }

end Sys2Proof.Machine
end

