-- ==== Sys2Proof/Machine/Serializer.lean ====
section
/-! DEFINITION. The option-table mutation serializer and the collaborators' answers: `Grant` with `issue` (R182,
R183), `ApplyAck` (R184) and `SnapshotAck` (R173). A turn whose guard does not hold changes nothing (R13; log
entry 4). -/

namespace Sys2Proof.Machine

/-- The two kinds of request (R180). -/
inductive Request where
  | apply (tag : Tag) (P : Bytes)
  | snapshot
  deriving DecidableEq, Repr

/-- The class of a command decides its request (R130, R180): a write command carries its tag and payload, GET_OPTIONS
nothing (R134, R161). -/
def requestOf (tag : Tag) (P : Bytes) : Request :=
  if tag.isWrite then .apply tag P else .snapshot

/-- `issue(s)` (R183): the request goes to its collaborator. -/
def issue (k : Nat) (rq : Request) (s : State) : State :=
  match rq with
  | .snapshot => emit [.snapshotIssued k] (updSession k (fun ss => { ss with phase := .inSnapshot }) s)
  | .apply tag P => emit [.applyIssued k tag P] (updSession k (fun ss => { ss with phase := .inApply }) s)

/-- `Grant(s)` (R182): enabled when the serializer is free and the session waits. A session that waits has a command
in flight (R25, R26); a state without one has no request to grant (log entry 11). -/
def grant (k : Nat) (s : State) : Out :=
  match s.session? k with
  | none => .fault .noSuchSession
  | some ss =>
    if s.serOwner = none ∧ ss.phase = .waitGrant then
      match ss.cmd, ss.payload with
      | some tag, some P => .next (issue k (requestOf tag P) { s with serOwner := some k })
      | _, _ => .next s
    else .next s

/-- What the write collaborator's answer to the command `tag` does (R184, R185): the outcome is recorded and the
transaction is complete either way. -/
def applyReturned (k : Nat) (tag : Tag) (r : ApplyResult) (s : State) : State :=
  match r with
  | .ok => complete k (.okApplied tag) (emit [.applyReturned k r] s)
  | .err e => raise k (.applyError tag e) (emit [.applyReturned k r] s)

/-- `ApplyAck(s, r)` (R184): enabled in IN_APPLY; an answer nobody waits for is lost (R232). -/
def applyAck (k : Nat) (r : ApplyResult) (s : State) : Out :=
  match s.session? k with
  | none => .fault .noSuchSession
  | some ss =>
    if ss.phase = .inApply then
      match ss.cmd with
      | some tag => .next (applyReturned k tag r s)
      | none => .next s
    else .next s

/-- What the read collaborator's answer does in a session of version `v` (R173, R174): the reply is written and
recorded, or it is aborted and nothing of it is kept. -/
def snapshotReturned (k : Nat) (v : Version) (B : Bytes) (s : State) : State :=
  match encodeReply s.cfg.replyPad B v with
  | .rejected e => raise k e (emit [.snapshotReturned k B] s)
  | .accepted R =>
    complete k .okReply
      (emit [.snapshotReturned k B, .reply k R] (updSession k (fun ss => { ss with reply := some R }) s))

/-- `SnapshotAck(s, B)` (R173): enabled in IN_SNAPSHOT; an answer nobody waits for is lost (R232). -/
def snapshotAck (k : Nat) (B : Bytes) (s : State) : Out :=
  match s.session? k with
  | none => .fault .noSuchSession
  | some ss =>
    if ss.phase = .inSnapshot then
      match ss.ver with
      | some v => .next (snapshotReturned k v B s)
      | none => .next s
    else .next s

end Sys2Proof.Machine
end

