-- ==== Sys2Proof/Machine/Agents.lean ====
section
/-! DEFINITION. Whose step is next, and what it is: the agents of R20, and how the bus side takes its next input. -/

namespace Sys2Proof.Machine

/-- What a turn comes to: an instruction to run in a state, or an outcome at once. -/
inductive Move where
  | run (i : Instr) (s : State)
  | done (o : Out)

/-- Take the oldest input from the port of session `k`. -/
def popInput (k : Nat) (s : State) : State :=
  updSession k (fun ss => { ss with inputs := ss.inputs.tail }) s

/-- The bus side of session `k` has its turn (R58, R101, R117): in IDLE it takes the oldest input and decodes it. In any
other phase the inputs are held, unexamined (R105, R117). -/
def busTurn (k : Nat) (s : State) : Move :=
  match s.session? k with
  | none => .done (.fault .noSuchSession)
  | some ss =>
    if ss.phase = .idle then
      match ss.inputs with
      | [] => .done (.next s)
      | inp :: _ =>
        match decodeInput s.cfg.policy ss.ver k inp with
        | .accepted i => .run i (popInput k s)
        | .rejected e => .done (.next (rejectInput k e (popInput k s)))
    else .done (.next s)

/-- One turn of one agent (R13, R20). -/
def takeTurn (t : Turn) (s : State) : Move :=
  match t with
  | .bus k => busTurn k s
  | .grant k => .done (grant k s)
  | .applyAck k r => .done (applyAck k r s)
  | .snapshotAck k B => .done (snapshotAck k B s)
  | .reset => .done (.next (resetBlock s))

/-- The next move: the first turn to come is used up. With no turn to come the block waits as it is (R24, R219). -/
def nextMove (s : State) : Move :=
  match s.turns with
  | [] => .done (.next s)
  | t :: ts => takeTurn t { s with turns := ts }

/-- Session 0 ready to take `inp` next: IDLE, with `inp` before the inputs at its port. A frame needs an active version,
and the instruction that `decodeTableWord` reads is V2's, so for a frame VER is made V2 (log entry 8). -/
def Session.readyFor (inp : BusInput) (ss : Session) : Session :=
  { ss with
    ver := match inp with
      | .negotiate _ => ss.ver
      | .frame _ => some .v2
    phase := .idle
    cmd := none
    payload := none
    inputs := inp :: ss.inputs }

/-- Place an input so that the next move is session 0 taking it (log entry 8). -/
def placeInput (inp : BusInput) (s : State) : State :=
  releaseSerializer 0 (updSession 0 (Session.readyFor inp) { s with turns := .bus 0 :: s.turns })

end Sys2Proof.Machine
end

