-- ==== Sys2Proof/Machine/GetOptions.lean ====
section
/-! DEFINITION. The read command. The meaning is the receive step of its frame (R80, R117); `READ` (R132) goes on
with the serializer's and the collaborator's steps, and its payload reaches no port (R134). -/

namespace Sys2Proof.Machine

/-- GET_OPTIONS: code 0x01 (R134). -/
def execGetOptions (k : Nat) (P : Bytes) (s : State) : Out :=
  receiveFrame k (commandFrame .getOptions P) s

end Sys2Proof.Machine
end

