-- ==== Sys2Proof/Machine/Negotiation.lean ====
section
/-! DEFINITION. The negotiation inputs that select a version (40_negotiation.md). -/

namespace Sys2Proof.Machine

/-- NEGOTIATE_V1: `Negotiate(k, 0x36)` (R101). -/
def execNegotiateV1 (k : Nat) (s : State) : Out :=
  receiveNegotiation k (protocolNumber .v1) s

/-- NEGOTIATE_V2: `Negotiate(k, 0x3E)` (R101). -/
def execNegotiateV2 (k : Nat) (s : State) : Out :=
  receiveNegotiation k (protocolNumber .v2) s

end Sys2Proof.Machine
end

