-- ==== Sys2Proof/Machine/SetOption.lean ====
section
/-! DEFINITION. The 22 SET_OPTION write commands. The meaning is the receive step of the command's frame (R80, R117);
`WRITE` (R131) goes on with the serializer's and the collaborator's steps. A command's frame in a session of a version
without the command is what its code resolves to there (R75, R76; log entry 9). -/

namespace Sys2Proof.Machine

/-- SET_OPTION_12_24: code 0x02 (R135). -/
def execSetOption1224 (k : Nat) (P : Bytes) (s : State) : Out :=
  receiveFrame k (commandFrame .setOption1224 P) s

/-- SET_OPTION_BLANK_LEAD: code 0x03 (R136). -/
def execSetOptionBlankLead (k : Nat) (P : Bytes) (s : State) : Out :=
  receiveFrame k (commandFrame .setOptionBlankLead P) s

/-- SET_OPTION_SCROLLBACK: code 0x04 (R137). -/
def execSetOptionScrollback (k : Nat) (P : Bytes) (s : State) : Out :=
  receiveFrame k (commandFrame .setOptionScrollback P) s

/-- SET_OPTION_SUPPRESS_ACP: code 0x05 (R138). -/
def execSetOptionSuppressAcp (k : Nat) (P : Bytes) (s : State) : Out :=
  receiveFrame k (commandFrame .setOptionSuppressAcp P) s

/-- SET_OPTION_DATE_FORMAT: code 0x06 (R139). -/
def execSetOptionDateFormat (k : Nat) (P : Bytes) (s : State) : Out :=
  receiveFrame k (commandFrame .setOptionDateFormat P) s

/-- SET_OPTION_DAY_BLANKING: code 0x07 (R140). -/
def execSetOptionDayBlanking (k : Nat) (P : Bytes) (s : State) : Out :=
  receiveFrame k (commandFrame .setOptionDayBlanking P) s

/-- SET_OPTION_BLANK_START: code 0x08 (R141). -/
def execSetOptionBlankStart (k : Nat) (P : Bytes) (s : State) : Out :=
  receiveFrame k (commandFrame .setOptionBlankStart P) s

/-- SET_OPTION_BLANK_END: code 0x09 (R142). -/
def execSetOptionBlankEnd (k : Nat) (P : Bytes) (s : State) : Out :=
  receiveFrame k (commandFrame .setOptionBlankEnd P) s

/-- SET_OPTION_FADE_STEPS: code 0x0A (R143). -/
def execSetOptionFadeSteps (k : Nat) (P : Bytes) (s : State) : Out :=
  receiveFrame k (commandFrame .setOptionFadeSteps P) s

/-- SET_OPTION_SCROLL_STEPS: code 0x0B (R144). -/
def execSetOptionScrollSteps (k : Nat) (P : Bytes) (s : State) : Out :=
  receiveFrame k (commandFrame .setOptionScrollSteps P) s

/-- SET_OPTION_BACKLIGHT_MODE: code 0x0C (R145). -/
def execSetOptionBacklightMode (k : Nat) (P : Bytes) (s : State) : Out :=
  receiveFrame k (commandFrame .setOptionBacklightMode P) s

/-- SET_OPTION_RED_CHANNEL: code 0x0D (R146). -/
def execSetOptionRedChannel (k : Nat) (P : Bytes) (s : State) : Out :=
  receiveFrame k (commandFrame .setOptionRedChannel P) s

/-- SET_OPTION_GREEN_CHANNEL: code 0x0E (R147). -/
def execSetOptionGreenChannel (k : Nat) (P : Bytes) (s : State) : Out :=
  receiveFrame k (commandFrame .setOptionGreenChannel P) s

/-- SET_OPTION_BLUE_CHANNEL: code 0x0F (R148). -/
def execSetOptionBlueChannel (k : Nat) (P : Bytes) (s : State) : Out :=
  receiveFrame k (commandFrame .setOptionBlueChannel P) s

/-- SET_OPTION_CYCLE_SPEED: code 0x10 (R149). -/
def execSetOptionCycleSpeed (k : Nat) (P : Bytes) (s : State) : Out :=
  receiveFrame k (commandFrame .setOptionCycleSpeed P) s

/-- SET_OPTION_FADE: code 0x12 (R151). -/
def execSetOptionFade (k : Nat) (P : Bytes) (s : State) : Out :=
  receiveFrame k (commandFrame .setOptionFade P) s

/-- SET_OPTION_USE_LDR: code 0x13 (R152). -/
def execSetOptionUseLdr (k : Nat) (P : Bytes) (s : State) : Out :=
  receiveFrame k (commandFrame .setOptionUseLdr P) s

/-- SET_OPTION_BLANK_MODE: code 0x14 (R153). -/
def execSetOptionBlankMode (k : Nat) (P : Bytes) (s : State) : Out :=
  receiveFrame k (commandFrame .setOptionBlankMode P) s

/-- SET_OPTION_SLOTS_MODE: code 0x15 (R154). -/
def execSetOptionSlotsMode (k : Nat) (P : Bytes) (s : State) : Out :=
  receiveFrame k (commandFrame .setOptionSlotsMode P) s

/-- SET_OPTION_PIR_TIMEOUT: code 0x16 (R155), a command of V2 only. -/
def execSetOptionPirTimeout (k : Nat) (P : Bytes) (s : State) : Out :=
  receiveFrame k (commandFrame .setOptionPirTimeout P) s

/-- SET_OPTION_MIN_DIM_V1: code 0x16 (R156), a command of V1 only. -/
def execSetOptionMinDimV1 (k : Nat) (P : Bytes) (s : State) : Out :=
  receiveFrame k (commandFrame .setOptionMinDimV1 P) s

/-- SET_OPTION_MIN_DIM_V2: code 0x19 (R159), under V1 only where the policy accepts it. -/
def execSetOptionMinDimV2 (k : Nat) (P : Bytes) (s : State) : Out :=
  receiveFrame k (commandFrame .setOptionMinDimV2 P) s

end Sys2Proof.Machine
end

