-- ==== Sys2Proof/Machine/TimeShow.lean ====
section
/-! DEFINITION. The write commands that are not options: TIME_UPDATE and the SHOW commands, which reply nothing
(90_conflicts.md C2). The meaning is the receive step of the command's frame (R80, R117); `WRITE` (R131) goes on with the
serializer's and the collaborator's steps. -/

namespace Sys2Proof.Machine

/-- TIME_UPDATE: code 0x00 (R133). -/
def execTimeUpdate (k : Nat) (P : Bytes) (s : State) : Out :=
  receiveFrame k (commandFrame .timeUpdate P) s

/-- SHOW_IP_ADDR: code 0x11 (R150). -/
def execShowIpAddr (k : Nat) (P : Bytes) (s : State) : Out :=
  receiveFrame k (commandFrame .showIpAddr P) s

/-- SHOW_VALUE: code 0x17 (R157). -/
def execShowValue (k : Nat) (P : Bytes) (s : State) : Out :=
  receiveFrame k (commandFrame .showValue P) s

/-- SHOW_VALUE_FORMAT: code 0x18 (R158). -/
def execShowValueFormat (k : Nat) (P : Bytes) (s : State) : Out :=
  receiveFrame k (commandFrame .showValueFormat P) s

end Sys2Proof.Machine
end

