-- ==== Sys2Proof/Machine/Dispatch.lean ====
section
/-! DEFINITION. `exec`: one arm for each instruction, each one direct call of its meaning. -/

namespace Sys2Proof.Machine

def exec (i : Instr) (s : State) : Host.Outcome State Fault Refusal :=
  match i with
  | .negotiateV1 k => Sys2Proof.Machine.execNegotiateV1 k s
  | .negotiateV2 k => Sys2Proof.Machine.execNegotiateV2 k s
  | .timeUpdate k P => Sys2Proof.Machine.execTimeUpdate k P s
  | .getOptions k P => Sys2Proof.Machine.execGetOptions k P s
  | .setOption1224 k P => Sys2Proof.Machine.execSetOption1224 k P s
  | .setOptionBlankLead k P => Sys2Proof.Machine.execSetOptionBlankLead k P s
  | .setOptionScrollback k P => Sys2Proof.Machine.execSetOptionScrollback k P s
  | .setOptionSuppressAcp k P => Sys2Proof.Machine.execSetOptionSuppressAcp k P s
  | .setOptionDateFormat k P => Sys2Proof.Machine.execSetOptionDateFormat k P s
  | .setOptionDayBlanking k P => Sys2Proof.Machine.execSetOptionDayBlanking k P s
  | .setOptionBlankStart k P => Sys2Proof.Machine.execSetOptionBlankStart k P s
  | .setOptionBlankEnd k P => Sys2Proof.Machine.execSetOptionBlankEnd k P s
  | .setOptionFadeSteps k P => Sys2Proof.Machine.execSetOptionFadeSteps k P s
  | .setOptionScrollSteps k P => Sys2Proof.Machine.execSetOptionScrollSteps k P s
  | .setOptionBacklightMode k P => Sys2Proof.Machine.execSetOptionBacklightMode k P s
  | .setOptionRedChannel k P => Sys2Proof.Machine.execSetOptionRedChannel k P s
  | .setOptionGreenChannel k P => Sys2Proof.Machine.execSetOptionGreenChannel k P s
  | .setOptionBlueChannel k P => Sys2Proof.Machine.execSetOptionBlueChannel k P s
  | .setOptionCycleSpeed k P => Sys2Proof.Machine.execSetOptionCycleSpeed k P s
  | .showIpAddr k P => Sys2Proof.Machine.execShowIpAddr k P s
  | .setOptionFade k P => Sys2Proof.Machine.execSetOptionFade k P s
  | .setOptionUseLdr k P => Sys2Proof.Machine.execSetOptionUseLdr k P s
  | .setOptionBlankMode k P => Sys2Proof.Machine.execSetOptionBlankMode k P s
  | .setOptionSlotsMode k P => Sys2Proof.Machine.execSetOptionSlotsMode k P s
  | .setOptionPirTimeout k P => Sys2Proof.Machine.execSetOptionPirTimeout k P s
  | .setOptionMinDimV1 k P => Sys2Proof.Machine.execSetOptionMinDimV1 k P s
  | .showValue k P => Sys2Proof.Machine.execShowValue k P s
  | .showValueFormat k P => Sys2Proof.Machine.execShowValueFormat k P s
  | .setOptionMinDimV2 k P => Sys2Proof.Machine.execSetOptionMinDimV2 k P s

end Sys2Proof.Machine
end

