-- ==== Sys2Proof/Machine/Step.lean ====
section
/-! DEFINITION. The step function, and where the host puts the instruction that the next step runs. -/

namespace Sys2Proof.Machine

/-- One step: the next move, which runs an instruction or is over at once (R13). -/
def step (s : State) : Host.Outcome State Fault Refusal :=
  match nextMove s with
  | .run i t => exec i t
  | .done o => o

/-- `s` with the instruction of a table word at the port of session 0, and its turn next (log entry 8). -/
def State.withFetchWord (s : State) (nbits w : Nat) : State :=
  placeInput (tableInput nbits w) s

end Sys2Proof.Machine
end

