-- ==== Sys2Proof/Machine/Flags.lean ====
section
/-! DEFINITION. The block has no condition flags (R34). What it has in their place is given here: the numeric codes
of the status records and the encoding of `VER`. No input reads either. -/

namespace Sys2Proof.Machine

/-- The code column of the status records (R200). -/
def StatusRec.code : StatusRec → Byte
  | .okNegotiated _ => 0x00
  | .okApplied _ => 0x00
  | .okReply => 0x00
  | .error (.unsupportedProtocol _) => 0x01
  | .error (.frameLengthMismatch _ _) => 0x02
  | .error (.unknownCommand _) => 0x03
  | .error (.payloadTooLarge _ _) => 0x04
  | .error (.applyError _ _) => 0x05
  | .error (.noSession _) => 0x06

/-- The encoding of `VER` (R23): NONE = 0, V1 = 1, V2 = 2. -/
def verCode : Option Version → BitVec 2
  | none => 0
  | some .v1 => 1
  | some .v2 => 2

end Sys2Proof.Machine
end

