-- ==== Sys2Proof/Safety.lean ====
section
/-! DEFINITION. What counts as a safe state and a safe run, in the terms the statements use: the invariants of R36,
the legal status records of R200, the serial use of the option table (R181), the phase transitions of R24, and the end
of a run (R244). -/

namespace Sys2Proof.Machine

/-- The invariants of R36 for session `k`, under the serializer's owner. -/
abbrev SessionOk (k : Nat) (owner : Option Nat) (ss : Session) : Prop :=
  (ss.phase = .idle ↔ ss.cmd = none) ∧
  (ss.cmd = none ↔ ss.payload = none) ∧
  (ss.phase ≠ .idle → ss.ver ≠ none ∧ ss.payload.map List.length = ss.ver.map payloadLength) ∧
  ((ss.phase = .inApply ∨ ss.phase = .inSnapshot) ↔ owner = some k) ∧
  (ss.phase = .inSnapshot → ss.cmd = some .getOptions) ∧
  (ss.phase = .inApply → ss.cmd.map Tag.isWrite = some true) ∧
  (ss.reply ≠ none → ss.phase = .idle ∧ ss.reply.map List.length = ss.ver.map frameSize)

/-- The invariants of R36: every session, taken with its index, keeps them; with the serializer's owner a session
(R29), and at least one session in the block (R9). -/
abbrev State.Inv (s : State) : Prop :=
  (∀ p ∈ s.sessions.zipIdx, SessionOk p.2 s.serOwner p.1) ∧
  (∀ k ∈ s.serOwner, k < s.nSessions) ∧
  1 ≤ s.nSessions

/-- The field values R200 allows in a record. -/
def StatusRec.legal : StatusRec → Bool
  | .okNegotiated _ => true
  | .okApplied tag => tag.isWrite
  | .okReply => true
  | .error (.unsupportedProtocol pn) => pn != 0x36 && pn != 0x3E
  | .error (.frameLengthMismatch expected actual) => (expected == 22 || expected == 24) && actual != expected
  | .error (.unknownCommand code) => 0x19 ≤ code
  | .error (.payloadTooLarge needed capacity) => (capacity == 22 || capacity == 24) && capacity < needed
  | .error (.applyError tag _) => tag.isWrite
  | .error (.noSession _) => true

/-- The record a Status event carries is one R200 allows. -/
def Event.legal : Event → Bool
  | .status _ st => st.legal
  | .negotiated _ _ => true
  | .applyIssued _ _ _ => true
  | .applyReturned _ _ => true
  | .snapshotIssued _ => true
  | .snapshotReturned _ _ => true
  | .reply _ _ => true
  | .resetTaken => true

/-- Every STATUS register and every Status event holds a record of R200. -/
abbrev State.StatusLegal (s : State) : Prop :=
  (∀ ss ∈ s.sessions, ∀ st ∈ ss.status, st.legal = true) ∧
  (∀ e ∈ s.events, e.legal = true)

/-- The session whose request is outstanding after one more event, read from the log alone: `none` once the log shows a
second request before the answer to the first, or an answer nobody waits for (R181, R186). -/
def outstandingStep : Option (Option Nat) → Event → Option (Option Nat)
  | none, _ => none
  | some none, .applyIssued k _ _ => some (some k)
  | some none, .snapshotIssued k => some (some k)
  | some (some _), .applyIssued _ _ _ => none
  | some (some _), .snapshotIssued _ => none
  | some o, .applyReturned k _ => if o = some k then some none else none
  | some o, .snapshotReturned k _ => if o = some k then some none else none
  | some _, .resetTaken => some none
  | some o, .negotiated _ _ => some o
  | some o, .status _ _ => some o
  | some o, .reply _ _ => some o

/-- What the whole log shows: no two requests were ever interleaved, and the outstanding one is that of the
serializer's owner (R181). -/
abbrev State.LogSerial (s : State) : Prop :=
  s.events.foldl outstandingStep (some none) = some s.serOwner

/-- The state in which an operation of session `k` has ended with the record `st` (R12), `ss` being its other registers
and `es` the events before the record's: the record in STATUS and in the log, CMD and PAYLOAD cleared, the serializer
released if the session held it, and the session in IDLE. -/
def State.closed (s : State) (k : Nat) (ss : Session) (es : List Event) (st : StatusRec) : State :=
  { s with
    sessions := s.sessions.set k { ss with status := some st, phase := .idle, cmd := none, payload := none }
    serOwner := if s.serOwner = some k then none else s.serOwner
    events := s.events ++ es ++ [.status k st] }

/-- The state in which session `k`, whose registers were `ss`, has the command in flight (R117). -/
def State.inFlight (s : State) (k : Nat) (ss : Session) (tag : Tag) (P : Bytes) : State :=
  { s with
    sessions := s.sessions.set k
      { ss with reply := none, cmd := some tag, payload := some P, phase := .waitGrant } }

/-- A session of version `v` awaits its next input, and `P` has the payload length of the version (R26). -/
abbrev Session.Awaits (ss : Session) (v : Version) (P : Bytes) : Prop :=
  ss.phase = .idle ∧ ss.ver = some v ∧ P.length = frameSize v - 1

/-- The transitions of `PHASE` that R24 lists, each with the turn of session `k` that makes it. -/
abbrev PhaseMove (k : Nat) (p q : Phase) : Turn → Prop
  | .bus j => j = k ∧ p = .idle ∧ q = .waitGrant
  | .grant j => j = k ∧ p = .waitGrant ∧ (q = .inApply ∨ q = .inSnapshot)
  | .applyAck j _ => j = k ∧ p = .inApply ∧ q = .idle
  | .snapshotAck j _ => j = k ∧ p = .inSnapshot ∧ q = .idle
  | .reset => q = .idle

/-- No step of the block is enabled but taking an input: every session is IDLE and the serializer is free (R244). -/
abbrev State.quiescent (s : State) : Prop :=
  (∀ ss ∈ s.sessions, ss.phase = .idle) ∧ s.serOwner = none

/-- Every input of the script has been taken (R244): none is left at a port, and no `Reset()` is to come. -/
abbrev State.inputsTaken (s : State) : Prop :=
  (∀ ss ∈ s.sessions, ss.inputs = []) ∧ Turn.reset ∉ s.turns

/-- The run has ended (R244): every input has been taken and the block is quiescent. -/
abbrev State.ended (s : State) : Prop :=
  s.inputsTaken ∧ s.quiescent

/-- Every turn to come names a session of the block (R20). -/
abbrev State.TurnsInRange (s : State) : Prop :=
  ∀ t ∈ s.turns, ∀ k ∈ t.session?, k < s.nSessions

end Sys2Proof.Machine
end

