-- ==== Sys2Proof/Certificates/Slice0/Obligations.lean ====
section
/-! DEFINITION. The statements for the provers. A step statement names the turn that comes next (`s.turns = u :: us`):
turns are the model's form of "an agent takes its step" (log entry 2), and the inputs at a session's port are the
model's form of the inputs delivered to it (log entry 3). -/

open Sys2Proof Sys2Proof.Machine

/-! ### Encoding -/

/-- R100: "No partial matches, no fallback — exact equality only." -/
def Obligations.ProtocolNumbersAreExact : Prop :=
  ∀ pn : Byte,
    (negotiateVersion pn = .accepted .v1 ↔ pn = 54) ∧
    (negotiateVersion pn = .accepted .v2 ↔ pn = 62) ∧
    (pn ≠ 54 → pn ≠ 62 → negotiateVersion pn = .rejected (.unsupportedProtocol pn))

/-- The command map of R74 and table T: each code, with its command under V1 and under V2, and its class. Code 0x19 under
V1 is the ACCEPT row. -/
def Obligations.CodesResolveAsTheMapLists : Prop :=
  ∀ policy : Policy, ∀ row ∈ ([
      (0x00, .timeUpdate, .timeUpdate), (0x01, .getOptions, .getOptions),
      (0x02, .setOption1224, .setOption1224), (0x03, .setOptionBlankLead, .setOptionBlankLead),
      (0x04, .setOptionScrollback, .setOptionScrollback), (0x05, .setOptionSuppressAcp, .setOptionSuppressAcp),
      (0x06, .setOptionDateFormat, .setOptionDateFormat), (0x07, .setOptionDayBlanking, .setOptionDayBlanking),
      (0x08, .setOptionBlankStart, .setOptionBlankStart), (0x09, .setOptionBlankEnd, .setOptionBlankEnd),
      (0x0A, .setOptionFadeSteps, .setOptionFadeSteps), (0x0B, .setOptionScrollSteps, .setOptionScrollSteps),
      (0x0C, .setOptionBacklightMode, .setOptionBacklightMode),
      (0x0D, .setOptionRedChannel, .setOptionRedChannel), (0x0E, .setOptionGreenChannel, .setOptionGreenChannel),
      (0x0F, .setOptionBlueChannel, .setOptionBlueChannel), (0x10, .setOptionCycleSpeed, .setOptionCycleSpeed),
      (0x11, .showIpAddr, .showIpAddr), (0x12, .setOptionFade, .setOptionFade),
      (0x13, .setOptionUseLdr, .setOptionUseLdr), (0x14, .setOptionBlankMode, .setOptionBlankMode),
      (0x15, .setOptionSlotsMode, .setOptionSlotsMode), (0x16, .setOptionMinDimV1, .setOptionPirTimeout),
      (0x17, .showValue, .showValue), (0x18, .showValueFormat, .showValueFormat),
      (0x19, .setOptionMinDimV2, .setOptionMinDimV2)] : List (Byte × Tag × Tag)),
    ((row.1 = 0x19 → policy = .accept) → resolve policy row.1 .v1 = some row.2.1) ∧
    resolve policy row.1 .v2 = some row.2.2 ∧
    row.2.1.isWrite = (row.1 != 0x01) ∧ row.2.2.isWrite = (row.1 != 0x01)

/-- R75: "Code 0x16 is the only code that resolves differently by version." -/
def Obligations.OnlyCode0x16ResolvesByVersion : Prop :=
  (∀ (policy : Policy) (code : Byte) (t1 t2 : Tag),
    resolve policy code .v1 = some t1 → resolve policy code .v2 = some t2 → (t1 ≠ t2 ↔ code = 0x16)) ∧
  (∀ policy : Policy,
    resolve policy 0x16 .v2 = some .setOptionPirTimeout ∧ resolve policy 0x16 .v1 = some .setOptionMinDimV1)

/-- Words written out from the encodings of R133, R134, R135, R155, R156, R159 and R78, decoded. -/
def Obligations.WrittenFramesDecode : Prop :=
  decodeInput .accept none 0 (.negotiate 0x36) = .accepted (.negotiateV1 0) ∧
  decodeInput .accept none 0 (.negotiate 0x3E) = .accepted (.negotiateV2 0) ∧
  decodeInput .accept (some .v2) 0 (.frame ([0x00, 0x01] ++ List.replicate 22 0)) =
    .accepted (.timeUpdate 0 (0x01 :: List.replicate 22 0)) ∧
  decodeInput .accept (some .v2) 1 (.frame (0x01 :: List.replicate 23 0)) =
    .accepted (.getOptions 1 (List.replicate 23 0)) ∧
  decodeInput .accept (some .v1) 0 (.frame ([0x02, 0x01] ++ List.replicate 20 0)) =
    .accepted (.setOption1224 0 (0x01 :: List.replicate 20 0)) ∧
  decodeInput .accept (some .v2) 0 (.frame ([0x16, 0x01] ++ List.replicate 22 0)) =
    .accepted (.setOptionPirTimeout 0 (0x01 :: List.replicate 22 0)) ∧
  decodeInput .accept (some .v1) 0 (.frame ([0x16, 0x01] ++ List.replicate 20 0)) =
    .accepted (.setOptionMinDimV1 0 (0x01 :: List.replicate 20 0)) ∧
  decodeInput .reject (some .v2) 0 (.frame ([0x19, 0x01] ++ List.replicate 22 0)) =
    .accepted (.setOptionMinDimV2 0 (0x01 :: List.replicate 22 0))

/-- Decode and encode agree: an instruction that can stand in a session of version `v` (R70, R74, R78) is decoded from
the input that encodes it, at every session and with every payload. -/
def Obligations.DecodeOfEncodeIsTheInstruction : Prop :=
  ∀ (policy : Policy) (v : Version) (i : Instr), i.wellFormed policy v = true →
    decodeInput policy (some v) i.session (encode i) = .accepted i

/-- The other direction: an input that decodes at all is the encoding of what it decodes to, which can stand in the
session; with no version active only a negotiation input decodes (R118). -/
def Obligations.EncodeOfDecodeIsTheInput : Prop :=
  ∀ (policy : Policy) (ver : Option Version) (k : Nat) (inp : BusInput) (i : Instr),
    decodeInput policy ver k inp = .accepted i →
      encode i = inp ∧ i.session = k ∧ (∀ v, ver = some v → i.wellFormed policy v = true) ∧
      (ver = none → i.command = none)

/-- R112: the command byte is byte 0 and the payload is bytes 1 to `FS(v) - 1`, unchanged, of a frame of the right
length only. -/
def Obligations.PayloadIsExtractedUnchanged : Prop :=
  ∀ (policy : Policy) (v : Version) (F : Bytes) (tag : Tag) (P : Bytes),
    decodeFrame policy F v = .accepted (tag, P) →
      F.length = frameSize v ∧ P.length = frameSize v - 1 ∧ F[0]? = some tag.code ∧ ∀ j, P[j]? = F[j + 1]?

/-- R121: a frame of the right length is decoded or its code is unknown. -/
def Obligations.RightLengthNeverMismatches : Prop :=
  ∀ (policy : Policy) (v : Version) (b : Byte) (Q : Bytes), (b :: Q).length = frameSize v →
    (∃ tag, decodeFrame policy (b :: Q) v = .accepted (tag, Q)) ∨
    decodeFrame policy (b :: Q) v = .rejected (.unknownCommand b)

/-- R176: decoding the reply to a snapshot that fits gives GET_OPTIONS and the snapshot, followed by the padding. -/
def Obligations.ReplyRoundTrip : Prop :=
  ∀ (policy : Policy) (pad : Byte) (v : Version) (B : Bytes), B.length ≤ frameSize v - 1 →
    ∃ R, encodeReply pad B v = .accepted R ∧
      decodeFrame policy R v = .accepted (.getOptions, B ++ List.replicate (frameSize v - 1 - B.length) pad)

/-- R200 and R23: the numeric code of each status record, and the encoding of VER, in which 3 is never held. -/
def Obligations.StatusAndVersionCodes : Prop :=
  (∀ (v : Version) (tag : Tag), StatusRec.code (.okNegotiated v) = 0 ∧ StatusRec.code (.okApplied tag) = 0 ∧
    StatusRec.code .okReply = 0) ∧
  (∀ (b : Byte) (n m : Nat) (tag : Tag) (e : ApplyErr),
    StatusRec.code (.error (.unsupportedProtocol b)) = 1 ∧ StatusRec.code (.error (.frameLengthMismatch n m)) = 2 ∧
    StatusRec.code (.error (.unknownCommand b)) = 3 ∧ StatusRec.code (.error (.payloadTooLarge n m)) = 4 ∧
    StatusRec.code (.error (.applyError tag e)) = 5 ∧ StatusRec.code (.error (.noSession n)) = 6) ∧
  verCode none = 0 ∧ verCode (some .v1) = 1 ∧ verCode (some .v2) = 2 ∧ ∀ o, verCode o ≠ 3

/-! ### Taking an input -/

/-- R12: what `raise` and `complete` do to a session, and that they do nothing else. -/
def Obligations.RaiseAndCompleteEndAnOperation : Prop :=
  ∀ (s : State) (k : Nat) (ss : Session), s.session? k = some ss →
    (∀ st : StatusRec, complete k st s = s.closed k ss [] st) ∧
    (∀ pn : Byte, raise k (.unsupportedProtocol pn) s =
      s.closed k { ss with ver := none } [] (.error (.unsupportedProtocol pn))) ∧
    (∀ e : Err, (∀ pn, e ≠ .unsupportedProtocol pn) → raise k e s = s.closed k ss [] (.error e))

/-- The negotiation step (R101), for every byte, in IDLE; in any other phase the input is held (R105, R236). That a held
input takes the last place at its port is the model's reading (log entry 21). -/
def Obligations.NegotiationFollowsItsRule : Prop :=
  ∀ (s : State) (k : Nat) (ss : Session) (pn : Byte), s.session? k = some ss →
    (ss.phase = .idle → receiveNegotiation k pn s = .next (
      if pn = 54 then s.closed k { ss with reply := none, ver := some .v1 } [.negotiated k .v1] (.okNegotiated .v1)
      else if pn = 62 then
        s.closed k { ss with reply := none, ver := some .v2 } [.negotiated k .v2] (.okNegotiated .v2)
      else s.closed k { ss with reply := none, ver := none } [] (.error (.unsupportedProtocol pn)))) ∧
    (ss.phase ≠ .idle → receiveNegotiation k pn s = .next { s with
      sessions := s.sessions.set k { ss with inputs := ss.inputs ++ [.negotiate pn] } })

/-- The receive step (R117), for every frame, in IDLE, with its errors in their order; in any other phase the frame is
held (R117, R236). That a held frame takes the last place at its port is the model's reading (log entry 21). -/
def Obligations.FrameFollowsTheReceiveRule : Prop :=
  ∀ (s : State) (k : Nat) (ss : Session) (F : Bytes), s.session? k = some ss →
    (ss.phase = .idle → receiveFrame k F s = .next (
      match ss.ver with
      | none => s.closed k { ss with reply := none } [] (.error (.noSession F.length))
      | some v =>
        if F.length ≠ frameSize v then
          s.closed k { ss with reply := none } [] (.error (.frameLengthMismatch (frameSize v) F.length))
        else match resolve s.cfg.policy (F.headD 0) v with
          | none => s.closed k { ss with reply := none } [] (.error (.unknownCommand (F.headD 0)))
          | some tag => s.inFlight k ss tag (F.drop 1))) ∧
    (ss.phase ≠ .idle → receiveFrame k F s = .next { s with
      sessions := s.sessions.set k { ss with inputs := ss.inputs ++ [.frame F] } })

/-- R118: with no version active a frame is dropped with NoSession, whatever its bytes are; only STATUS, REPLY and the
log change. -/
def Obligations.FrameWithoutVersionIsDropped : Prop :=
  ∀ (s : State) (k : Nat) (ss : Session) (F G : Bytes), s.Inv → s.session? k = some ss → ss.phase = .idle →
    ss.ver = none → F.length = G.length →
      receiveFrame k F s = .next { s with
        sessions := s.sessions.set k { ss with reply := none, status := some (.error (.noSession F.length)) }
        events := s.events ++ [.status k (.error (.noSession F.length))] } ∧
      receiveFrame k G s = receiveFrame k F s

/-- R116: the unknown codes are those above 0x19, and 0x19 under V1 with REJECT; a frame of the right length with such a
code raises UnknownCommand. -/
def Obligations.UnknownCodeRaisesUnknownCommand : Prop :=
  (∀ (policy : Policy) (v : Version) (code : Byte),
    resolve policy code v = none ↔ (0x19 < code ∨ (code = 0x19 ∧ v = .v1 ∧ policy = .reject))) ∧
  ∀ (s : State) (k : Nat) (ss : Session) (v : Version) (code : Byte) (P : Bytes), s.session? k = some ss →
    ss.Awaits v P → (0x19 < code ∨ (code = 0x19 ∧ v = .v1 ∧ s.cfg.policy = .reject)) →
      receiveFrame k (code :: P) s =
        .next (s.closed k { ss with reply := none } [] (.error (.unknownCommand code)))

/-- R115: code 0x19 under V1 with ACCEPT, under V1 with REJECT, and under V2 with either policy. -/
def Obligations.Code0x19FollowsThePolicy : Prop :=
  ∀ (s : State) (k : Nat) (ss : Session) (v : Version) (P : Bytes), s.session? k = some ss → ss.Awaits v P →
    receiveFrame k (0x19 :: P) s = .next (
      if v = .v1 ∧ s.cfg.policy = .reject then
        s.closed k { ss with reply := none } [] (.error (.unknownCommand 0x19))
      else s.inFlight k ss .setOptionMinDimV2 P)

/-- R119: a dropped frame leaves nothing in flight, reaches no collaborator, and leaves the version and every other
session as they were. -/
def Obligations.DroppedFrameLeavesNoTrace : Prop :=
  ∀ (s : State) (k : Nat) (ss : Session) (F : Bytes) (e : Err), s.Inv → s.session? k = some ss →
    ss.phase = .idle → decodeFor s.cfg.policy ss.ver F = .rejected e →
      ∃ t ss', receiveFrame k F s = .next t ∧ t.session? k = some ss' ∧ ss'.phase = .idle ∧
        ss'.cmd = none ∧ ss'.payload = none ∧ ss'.ver = ss.ver ∧ ss'.status = some (.error e) ∧
        t.serOwner = s.serOwner ∧ t.events = s.events ++ [.status k (.error e)] ∧
        ∀ j, j ≠ k → t.session? j = s.session? j

/-- R103: a failed negotiation leaves no version, even where one was active, and the frames that follow it are dropped
with NoSession and leave none. -/
def Obligations.FailedNegotiationEndsTheSession : Prop :=
  ∀ (s : State) (k : Nat) (ss : Session) (pn : Byte), s.session? k = some ss → ss.phase = .idle →
    pn ≠ 54 → pn ≠ 62 →
      ∃ t ss', receiveNegotiation k pn s = .next t ∧ t.session? k = some ss' ∧ ss'.ver = none ∧ ss'.phase = .idle ∧
        ∀ F, ∃ u uu, receiveFrame k F t = .next u ∧ u.session? k = some uu ∧ uu.ver = none ∧ uu.phase = .idle ∧
          uu.status = some (.error (.noSession F.length)) ∧ u.events = t.events ++ [.status k (.error (.noSession F.length))]

/-- R104: a successful renegotiation replaces the version, whatever it was, and changes neither SER_OWNER nor another
session. The option table is not in the block (R35). -/
def Obligations.RenegotiationReplacesTheVersion : Prop :=
  ∀ (s : State) (k : Nat) (ss : Session) (v : Version), s.Inv → s.session? k = some ss → ss.phase = .idle →
    ∃ t ss', receiveNegotiation k (protocolNumber v) s = .next t ∧ t.session? k = some ss' ∧
      ss'.ver = some v ∧ t.serOwner = s.serOwner ∧ ∀ j, j ≠ k → t.session? j = s.session? j

/-! ### The instructions: where each completes, and its frame -/

/-- R101: where NEGOTIATE_V1 and NEGOTIATE_V2 complete, and all they change. -/
def Obligations.NegotiationsComplete : Prop :=
  ∀ (s : State) (k : Nat) (ss : Session), s.session? k = some ss → ss.phase = .idle →
    exec (.negotiateV1 k) s = .next
      (s.closed k { ss with reply := none, ver := some .v1 } [.negotiated k .v1] (.okNegotiated .v1)) ∧
    exec (.negotiateV2 k) s = .next
      (s.closed k { ss with reply := none, ver := some .v2 } [.negotiated k .v2] (.okNegotiated .v2))

/-- R117 for TIME_UPDATE (R133), SHOW_IP_ADDR (R150), SHOW_VALUE (R157) and SHOW_VALUE_FORMAT (R158): under either
version the command is put in flight, and nothing else changes. -/
def Obligations.TimeAndShowCommandsAreAccepted : Prop :=
  ∀ (s : State) (k : Nat) (ss : Session) (v : Version) (P : Bytes), s.session? k = some ss → ss.Awaits v P →
    exec (.timeUpdate k P) s = .next (s.inFlight k ss .timeUpdate P) ∧
    exec (.showIpAddr k P) s = .next (s.inFlight k ss .showIpAddr P) ∧
    exec (.showValue k P) s = .next (s.inFlight k ss .showValue P) ∧
    exec (.showValueFormat k P) s = .next (s.inFlight k ss .showValueFormat P)

/-- R117 for GET_OPTIONS (R134), under either version. -/
def Obligations.GetOptionsIsAccepted : Prop :=
  ∀ (s : State) (k : Nat) (ss : Session) (v : Version) (P : Bytes), s.session? k = some ss → ss.Awaits v P →
    exec (.getOptions k P) s = .next (s.inFlight k ss .getOptions P)

/-- R117 for the SET_OPTION commands 0x02 to 0x09 (R135 to R142), under either version. -/
def Obligations.FormatAndBlankingOptionsAreAccepted : Prop :=
  ∀ (s : State) (k : Nat) (ss : Session) (v : Version) (P : Bytes), s.session? k = some ss → ss.Awaits v P →
    exec (.setOption1224 k P) s = .next (s.inFlight k ss .setOption1224 P) ∧
    exec (.setOptionBlankLead k P) s = .next (s.inFlight k ss .setOptionBlankLead P) ∧
    exec (.setOptionScrollback k P) s = .next (s.inFlight k ss .setOptionScrollback P) ∧
    exec (.setOptionSuppressAcp k P) s = .next (s.inFlight k ss .setOptionSuppressAcp P) ∧
    exec (.setOptionDateFormat k P) s = .next (s.inFlight k ss .setOptionDateFormat P) ∧
    exec (.setOptionDayBlanking k P) s = .next (s.inFlight k ss .setOptionDayBlanking P) ∧
    exec (.setOptionBlankStart k P) s = .next (s.inFlight k ss .setOptionBlankStart P) ∧
    exec (.setOptionBlankEnd k P) s = .next (s.inFlight k ss .setOptionBlankEnd P)

/-- R117 for the SET_OPTION commands 0x0A to 0x10 (R143 to R149), under either version. -/
def Obligations.StepAndColourOptionsAreAccepted : Prop :=
  ∀ (s : State) (k : Nat) (ss : Session) (v : Version) (P : Bytes), s.session? k = some ss → ss.Awaits v P →
    exec (.setOptionFadeSteps k P) s = .next (s.inFlight k ss .setOptionFadeSteps P) ∧
    exec (.setOptionScrollSteps k P) s = .next (s.inFlight k ss .setOptionScrollSteps P) ∧
    exec (.setOptionBacklightMode k P) s = .next (s.inFlight k ss .setOptionBacklightMode P) ∧
    exec (.setOptionRedChannel k P) s = .next (s.inFlight k ss .setOptionRedChannel P) ∧
    exec (.setOptionGreenChannel k P) s = .next (s.inFlight k ss .setOptionGreenChannel P) ∧
    exec (.setOptionBlueChannel k P) s = .next (s.inFlight k ss .setOptionBlueChannel P) ∧
    exec (.setOptionCycleSpeed k P) s = .next (s.inFlight k ss .setOptionCycleSpeed P)

/-- R117 for the SET_OPTION commands 0x12 to 0x15 (R151 to R154), under either version. -/
def Obligations.FadeAndModeOptionsAreAccepted : Prop :=
  ∀ (s : State) (k : Nat) (ss : Session) (v : Version) (P : Bytes), s.session? k = some ss → ss.Awaits v P →
    exec (.setOptionFade k P) s = .next (s.inFlight k ss .setOptionFade P) ∧
    exec (.setOptionUseLdr k P) s = .next (s.inFlight k ss .setOptionUseLdr P) ∧
    exec (.setOptionBlankMode k P) s = .next (s.inFlight k ss .setOptionBlankMode P) ∧
    exec (.setOptionSlotsMode k P) s = .next (s.inFlight k ss .setOptionSlotsMode P)

/-- R117 for the commands a version has or lacks: SET_OPTION_PIR_TIMEOUT under V2 (R155), SET_OPTION_MIN_DIM_V1 under V1
(R156), and SET_OPTION_MIN_DIM_V2 under V2, or under V1 where the policy accepts it (R159). -/
def Obligations.VersionBoundOptionsAreAccepted : Prop :=
  ∀ (s : State) (k : Nat) (ss : Session) (v : Version) (P : Bytes), s.session? k = some ss → ss.Awaits v P →
    (v = .v2 → exec (.setOptionPirTimeout k P) s = .next (s.inFlight k ss .setOptionPirTimeout P)) ∧
    (v = .v1 → exec (.setOptionMinDimV1 k P) s = .next (s.inFlight k ss .setOptionMinDimV1 P)) ∧
    (v = .v2 ∨ s.cfg.policy = .accept →
      exec (.setOptionMinDimV2 k P) s = .next (s.inFlight k ss .setOptionMinDimV2 P))

/-- A command in a session of a version without it is what its frame (R80) resolves to there (R75, R76): the other
command of code 0x16, or UnknownCommand(0x19). The reading of the instruction as its frame is the model's (log entry 9);
`step` never runs a command its session's version lacks. -/
def Obligations.CommandOfTheOtherVersionIsItsFrame : Prop :=
  ∀ (s : State) (k : Nat) (ss : Session) (v : Version) (P : Bytes), s.session? k = some ss → ss.Awaits v P →
    (v = .v1 → exec (.setOptionPirTimeout k P) s = .next (s.inFlight k ss .setOptionMinDimV1 P)) ∧
    (v = .v2 → exec (.setOptionMinDimV1 k P) s = .next (s.inFlight k ss .setOptionPirTimeout P)) ∧
    (v = .v1 → s.cfg.policy = .reject → exec (.setOptionMinDimV2 k P) s =
      .next (s.closed k { ss with reply := none } [] (.error (.unknownCommand 0x19))))

/-- Where a command traps: with no version active (R118) or with a payload that makes its frame too short or too long
(R111). The reading of the instruction as its frame is the model's (log entry 9). -/
def Obligations.CommandTrapsWithoutVersionOrLength : Prop :=
  ∀ (s : State) (i : Instr) (tag : Tag) (P : Bytes) (ss : Session), i.command = some (tag, P) →
    s.session? i.session = some ss → ss.phase = .idle →
      (ss.ver = none → exec i s =
        .next (s.closed i.session { ss with reply := none } [] (.error (.noSession (P.length + 1))))) ∧
      (∀ v, ss.ver = some v → P.length ≠ frameSize v - 1 → exec i s = .next (s.closed i.session
        { ss with reply := none } [] (.error (.frameLengthMismatch (frameSize v) (P.length + 1)))))

/-- Where an instruction waits: at a busy session it is held, unexamined, behind the inputs held already (R105, R117,
R236; that it takes the last place is log entry 21). -/
def Obligations.ExecHoldsAtABusySession : Prop :=
  ∀ (s : State) (i : Instr) (ss : Session), s.session? i.session = some ss → ss.phase ≠ .idle →
    exec i s = .next { s with
      sessions := s.sessions.set i.session { ss with inputs := ss.inputs ++ [encode i] } }

/-- The model's one fault (log entry 10): an instruction at a session the block does not have (R20). -/
def Obligations.ExecFaultsAtNoSession : Prop :=
  ∀ (s : State) (i : Instr), s.nSessions ≤ i.session → exec i s = .fault .noSuchSession

/-- The frame of every instruction: it changes its own session, SER_OWNER only by releasing it from that session, and
the log only by appending; the parameters and the turns stay. A command leaves VER alone (R207). -/
def Obligations.FrameOfEveryInstruction : Prop :=
  ∀ (s t : State) (i : Instr), exec i s = .next t →
    t.cfg = s.cfg ∧ t.turns = s.turns ∧ t.nSessions = s.nSessions ∧
    (t.serOwner = s.serOwner ∨ (s.serOwner = some i.session ∧ t.serOwner = none)) ∧
    (∃ es, t.events = s.events ++ es ∧ ∀ e ∈ es, (∃ v, e = .negotiated i.session v) ∨ ∃ st, e = .status i.session st) ∧
    (∀ j, j ≠ i.session → t.session? j = s.session? j) ∧
    (i.command ≠ none → (t.session? i.session).map Session.ver = (s.session? i.session).map Session.ver)

/-! ### A step -/

/-- A step runs the decoded instruction: when the bus side of an idle session has the next turn and the oldest input at
its port decodes to an instruction, the step is that instruction, with the turn used up and the input taken. -/
def Obligations.StepRunsTheDecodedInstruction : Prop :=
  ∀ (s : State) (k : Nat) (us : List Turn) (ss : Session) (inp : BusInput) (rest : List BusInput) (i : Instr),
    s.turns = .bus k :: us → s.session? k = some ss → ss.phase = .idle → ss.inputs = inp :: rest →
    decodeInput s.cfg.policy ss.ver k inp = .accepted i →
      step s = exec i { s with turns := us, sessions := s.sessions.set k { ss with inputs := rest } }

/-- The step that each other turn takes, and the bus side's step for an input that is rejected, which is that of the
negotiation step (R101) and of the receive step (R117). With no turn to come the block waits (log entry 4). -/
def Obligations.StepIsTheStepOfTheNextTurn : Prop :=
  ∀ (s : State) (us : List Turn) (k : Nat) (r : ApplyResult) (B : Bytes),
    (s.turns = [] → step s = .next s) ∧
    (s.turns = .grant k :: us → step s = grant k { s with turns := us }) ∧
    (s.turns = .applyAck k r :: us → step s = applyAck k r { s with turns := us }) ∧
    (s.turns = .snapshotAck k B :: us → step s = snapshotAck k B { s with turns := us }) ∧
    (s.turns = .reset :: us → step s = .next (resetBlock { s with turns := us })) ∧
    (∀ (ss : Session) (inp : BusInput) (rest : List BusInput), s.turns = .bus k :: us →
      s.session? k = some ss → ss.phase = .idle → ss.inputs = inp :: rest →
        step s =
          match inp with
          | .negotiate pn =>
            receiveNegotiation k pn { s with turns := us, sessions := s.sessions.set k { ss with inputs := rest } }
          | .frame F =>
            receiveFrame k F { s with turns := us, sessions := s.sessions.set k { ss with inputs := rest } })

/-- R105, R117: while the session is busy its bus side has no step, so its turn changes nothing: every input at its port
is held, and the version does not change under a frame in flight. That the turn is used up is log entry 4. -/
def Obligations.BusySessionHoldsItsInputs : Prop :=
  ∀ (s : State) (k : Nat) (us : List Turn) (ss : Session), s.turns = .bus k :: us →
    s.session? k = some ss → ss.phase ≠ .idle → step s = .next { s with turns := us }

/-- R58, R236: a step never drops or reorders the inputs at a port: it leaves them, or it takes the oldest one, at an
idle session in its bus side's turn. That a reset leaves them too is the model's reading (log entry 5). -/
def Obligations.InputsAreTakenInOrder : Prop :=
  ∀ (s t : State) (k : Nat) (ss ss' : Session), step s = .next t → s.session? k = some ss →
    t.session? k = some ss' →
      ss'.inputs = ss.inputs ∨
      (ss.phase = .idle ∧ (∃ us, s.turns = .bus k :: us) ∧ ∃ inp, ss.inputs = inp :: ss'.inputs)

/-- R219: no error and no input is a fault or a refusal. From a state whose turns name sessions of the block, every step
gives a next state, which is again one. That a step which is not enabled, or no turn at all, answers a next state is the
model's choice (log entry 4); so is the fault at a session the block lacks, which the premise keeps out (log entry 10). -/
def Obligations.NoStepFaultsOrRefuses : Prop :=
  ∀ s : State, s.TurnsInRange → ∃ t, step s = .next t ∧ t.TurnsInRange

/-- R244: once a run has ended no step is enabled, and the run stays ended; with every port empty and the block
quiescent, only a `Reset()` still to come does anything. That a turn which is not enabled is used up and changes nothing
else is the model's choice (log entry 4). -/
def Obligations.EndedRunHasNoStep : Prop :=
  ∀ (s : State) (u : Turn) (us : List Turn), s.TurnsInRange → s.turns = u :: us →
    (s.ended → step s = .next { s with turns := us } ∧ ({ s with turns := us } : State).ended) ∧
    ((∀ ss ∈ s.sessions, ss.inputs = []) → s.quiescent → u ≠ .reset → step s = .next { s with turns := us })

/-! ### The serializer, the collaborators, and reset -/

/-- R182 and R183: a grant takes the serializer and issues the one request of the command's class. -/
def Obligations.GrantIssuesTheRequest : Prop :=
  ∀ (s : State) (k : Nat) (ss : Session) (tag : Tag) (P : Bytes), s.session? k = some ss → s.serOwner = none →
    ss.phase = .waitGrant → ss.cmd = some tag → ss.payload = some P →
      grant k s = .next (
        if tag = .getOptions then
          { s with
            sessions := s.sessions.set k { ss with phase := .inSnapshot }
            serOwner := some k
            events := s.events ++ [.snapshotIssued k] }
        else
          { s with
            sessions := s.sessions.set k { ss with phase := .inApply }
            serOwner := some k
            events := s.events ++ [.applyIssued k tag P] })

/-- The guard of R182: while the serializer is owned, or of a session that does not wait, a grant does nothing (vectors
S2 and S6). That a turn whose guard fails changes nothing is log entry 4. -/
def Obligations.GrantNeedsAFreeSerializer : Prop :=
  ∀ (s : State) (k : Nat) (ss : Session), s.session? k = some ss → (s.serOwner ≠ none ∨ ss.phase ≠ .waitGrant) →
    grant k s = .next s

/-- R184 and R185: the write collaborator's answer completes the command, Ok or not, and releases the serializer; the
version stays, and nothing is retried. -/
def Obligations.ApplyAnswerCompletesTheWrite : Prop :=
  ∀ (s : State) (k : Nat) (ss : Session) (tag : Tag) (r : ApplyResult), s.session? k = some ss →
    ss.phase = .inApply → ss.cmd = some tag →
      applyAck k r s = .next (s.closed k ss [.applyReturned k r]
        (match r with
          | .ok => .okApplied tag
          | .err e => .error (.applyError tag e)))

/-- R173: a snapshot of at most `FS(v) - 1` bytes becomes the reply, `01`, the snapshot, and padding (R79); a longer one
raises PayloadTooLarge and writes no reply. -/
def Obligations.SnapshotAnswerBecomesTheReply : Prop :=
  ∀ (s : State) (k : Nat) (ss : Session) (v : Version) (B R : Bytes), s.session? k = some ss →
    ss.phase = .inSnapshot → ss.ver = some v →
    R = [0x01] ++ B ++ List.replicate (frameSize v - 1 - B.length) s.cfg.replyPad →
      snapshotAck k B s = .next (
        if B.length ≤ frameSize v - 1 then
          s.closed k { ss with reply := some R } [.snapshotReturned k B, .reply k R] .okReply
        else
          s.closed k ss [.snapshotReturned k B] (.error (.payloadTooLarge (B.length + 1) (frameSize v))))

/-- The guards of R184 and R173: an answer that no request waits for does nothing (vectors R-10, R-11), after a reset
too (R232, vector Z3). That such an answer is lost is log entry 4. -/
def Obligations.AnswersNobodyWaitsForAreLost : Prop :=
  ∀ (s : State) (k : Nat) (ss : Session) (r : ApplyResult) (B : Bytes), s.session? k = some ss →
    (ss.phase ≠ .inApply → applyAck k r s = .next s) ∧
    (ss.phase ≠ .inSnapshot → snapshotAck k B s = .next s) ∧
    applyAck k r (resetBlock s) = .next (resetBlock s) ∧
    snapshotAck k B (resetBlock s) = .next (resetBlock s)

/-- R187, R219: the block invents no answer. While a request is outstanding, no turn but the session's own answers and a
reset changes its session or gives the serializer to another. -/
def Obligations.UnansweredRequestHangs : Prop :=
  ∀ (s t : State) (k : Nat) (ss : Session) (u : Turn) (us : List Turn), s.Inv → s.session? k = some ss →
    (ss.phase = .inApply ∨ ss.phase = .inSnapshot) → s.turns = u :: us → u ≠ .reset →
    (∀ r, u ≠ .applyAck k r) → (∀ B, u ≠ .snapshotAck k B) → step s = .next t →
      t.session? k = some ss ∧ t.serOwner = some k

/-- R230: a reset may be taken in any state; every register of every session and SER_OWNER take their reset values, and
the log keeps its events and gains ResetTaken. -/
def Obligations.ResetClearsEveryRegister : Prop :=
  ∀ (s : State) (us : List Turn), s.turns = .reset :: us →
    ∃ t, step s = .next t ∧ t.nSessions = s.nSessions ∧ t.serOwner = none ∧
      t.events = s.events ++ [.resetTaken] ∧
      ∀ k ss, t.session? k = some ss → ss.ver = none ∧ ss.phase = .idle ∧ ss.cmd = none ∧ ss.payload = none ∧
        ss.status = none ∧ ss.reply = none

/-- What a reset leaves alone: the parameters (R231), the turns to come, and the inputs at the ports. That it keeps the
inputs is the model's reading of R236 and R244 (log entry 5). -/
def Obligations.ResetKeepsInputsAndParameters : Prop :=
  ∀ s : State, (resetBlock s).cfg = s.cfg ∧ (resetBlock s).turns = s.turns ∧
    ∀ k ss, s.session? k = some ss → ((resetBlock s).session? k).map Session.inputs = some ss.inputs

/-- State.reset: the reference parameters of R9, and every register at its reset value (R23 to R30, R230), with the log
empty before the first step. That no input and no turn is there is the model's choice (log entries 2, 3, 6). -/
def Obligations.ResetStateHoldsTheResetValues : Prop :=
  State.reset.cfg.policy = .accept ∧ State.reset.cfg.replyPad = 0x00 ∧ State.reset.nSessions = 1 ∧
  State.reset.serOwner = none ∧ State.reset.events = [] ∧ State.reset.turns = [] ∧
  ∀ k ss, State.reset.session? k = some ss → ss.ver = none ∧ ss.phase = .idle ∧ ss.cmd = none ∧
    ss.payload = none ∧ ss.status = none ∧ ss.reply = none ∧ ss.inputs = []

/-! ### Invariants, and rules of the whole machine -/

/-- The invariants of R36, the legal records of R200 and the serial log of R181 hold at reset. -/
def Obligations.InvariantsHoldAtReset : Prop :=
  State.reset.Inv ∧ State.reset.StatusLegal ∧ State.reset.LogSerial ∧ State.reset.TurnsInRange

/-- R36: the invariants hold in every state a run can start from (every register at its reset value, at least one
session as R9 has it, any inputs at their ports, any turns to come), and every step from a state that has them keeps
them. -/
def Obligations.StepKeepsTheInvariants : Prop :=
  (∀ (cfg : Config) (ports : List (List BusInput)) (turns : List Turn), 1 ≤ ports.length →
    ({ cfg := cfg, sessions := ports.map Session.cleared, serOwner := none, events := [], turns := turns } : State).Inv) ∧
  ∀ s t : State, s.Inv → step s = .next t → t.Inv

/-- R200: in a state of R36, every record a step writes has field values that R200 allows. -/
def Obligations.StatusRecordsStayLegal : Prop :=
  ∀ s t : State, s.Inv → s.StatusLegal → step s = .next t → t.StatusLegal

/-- R181: in the log, two requests are never interleaved, a write with a read neither: each request is answered, or
abandoned by a reset, before the next is issued, and the outstanding one is the serializer owner's. -/
def Obligations.RequestsAreNeverInterleaved : Prop :=
  ∀ s t : State, s.Inv → s.LogSerial → step s = .next t → t.LogSerial

/-- R181, R29: at most one request is outstanding in the whole block. -/
def Obligations.AtMostOneRequestIsOutstanding : Prop :=
  ∀ (s : State) (j k : Nat) (sj sk : Session), s.Inv → s.session? j = some sj → s.session? k = some sk →
    (sj.phase = .inApply ∨ sj.phase = .inSnapshot) → (sk.phase = .inApply ∨ sk.phase = .inSnapshot) → j = k

/-- R186: a request is issued only by a grant of a session that waits, once, and that session leaves WAIT_GRANT. -/
def Obligations.RequestsComeOnlyFromGrants : Prop :=
  ∀ (s t : State) (k : Nat) (e : Event), step s = .next t → e ∈ t.events.drop s.events.length →
    (e = .snapshotIssued k ∨ ∃ tag P, e = .applyIssued k tag P) →
      t.events = s.events ++ [e] ∧ s.serOwner = none ∧ t.serOwner = some k ∧ (∃ us, s.turns = .grant k :: us) ∧
      ∃ ss ss', s.session? k = some ss ∧ t.session? k = some ss' ∧ ss.phase = .waitGrant ∧
        (ss'.phase = .inApply ∨ ss'.phase = .inSnapshot)

/-- R30: no step removes or rewrites an event. -/
def Obligations.LogIsAppendOnly : Prop :=
  ∀ s t : State, step s = .next t → ∃ es, t.events = s.events ++ es

/-- R24: the only transitions of PHASE, each in the turn that makes it; a reset sets IDLE. -/
def Obligations.OnlyTheListedPhaseTransitions : Prop :=
  ∀ (s t : State) (k : Nat) (ss ss' : Session), step s = .next t → s.session? k = some ss →
    t.session? k = some ss' → ss'.phase ≠ ss.phase →
      ∃ u us, s.turns = u :: us ∧ PhaseMove k ss.phase ss'.phase u

/-- R23, R207: only a negotiation input, taken in IDLE, or a reset changes VER; a protocol number sets its version, and
any other byte and a reset set NONE. -/
def Obligations.OnlyNegotiationOrResetChangesTheVersion : Prop :=
  ∀ (s t : State) (k : Nat) (ss ss' : Session), step s = .next t → s.session? k = some ss →
    t.session? k = some ss' → ss'.ver ≠ ss.ver →
      (∃ us, s.turns = .reset :: us ∧ ss'.ver = none) ∨
      (∃ us pn rest, s.turns = .bus k :: us ∧ ss.phase = .idle ∧ ss.inputs = .negotiate pn :: rest ∧
        ss'.ver = if pn = 54 then some .v1 else if pn = 62 then some .v2 else none)

/-- R177: every reply a step emits has the frame size of its session's version. -/
def Obligations.EmittedRepliesHaveTheFrameSize : Prop :=
  ∀ (s t : State) (k : Nat) (R : Bytes), step s = .next t → Event.reply k R ∈ t.events.drop s.events.length →
    ∃ ss v, s.session? k = some ss ∧ ss.ver = some v ∧ R.length = frameSize v

/-- R8, R9, R216: no step changes a parameter or the number of sessions, and a turn of one session changes no register
and no input of another (R188, R209). -/
def Obligations.SessionsAreKeptApart : Prop :=
  ∀ s t : State, step s = .next t → t.cfg = s.cfg ∧ t.nSessions = s.nSessions ∧
    ∀ u us k j, s.turns = u :: us → u.session? = some k → j ≠ k → t.session? j = s.session? j

/-- R188: what a session's bus side does depends on its own session and the parameters alone: not on another session,
and not on who owns the serializer. Two blocks that agree on session `k` do the same to it and log the same. -/
def Obligations.BusStepSeesItsOwnSessionOnly : Prop :=
  ∀ (s s' t t' : State) (k : Nat) (us us' : List Turn), s.cfg = s'.cfg → s.session? k = s'.session? k →
    s.turns = .bus k :: us → s'.turns = .bus k :: us' → step s = .next t → step s' = .next t' →
      t.session? k = t'.session? k ∧ t.events.drop s.events.length = t'.events.drop s'.events.length

/-! ### A command from its frame to its end -/

/-- R131: a write command whose frame is taken, granted and answered runs to its end in three steps: one apply request
that carries the tag and the payload as received, the answer, and the record; no reply; the session idle again with its
version, and the serializer free. -/
def Obligations.WriteCommandRunsToItsAnswer : Prop :=
  ∀ (s : State) (k : Nat) (ss : Session) (v : Version) (i : Instr) (tag : Tag) (P : Bytes) (r : ApplyResult)
    (rest : List BusInput) (us : List Turn),
    s.turns = .bus k :: .grant k :: .applyAck k r :: us → s.session? k = some ss → ss.phase = .idle →
    ss.ver = some v → ss.inputs = encode i :: rest → i.command = some (tag, P) → tag ≠ .getOptions →
    i.wellFormed s.cfg.policy v = true → s.serOwner = none →
      Host.Core.run Sys2Proof.core 3 s = .next { s with
        turns := us
        sessions := s.sessions.set k
          { ss with
            inputs := rest, reply := none, cmd := none, payload := none, phase := .idle
            status := some (match r with | .ok => .okApplied tag | .err e => .error (.applyError tag e)) }
        events := s.events ++ [.applyIssued k tag P, .applyReturned k r,
          .status k (match r with | .ok => .okApplied tag | .err e => .error (.applyError tag e))] }

/-- R132: GET_OPTIONS, taken, granted and answered with `B`, runs to its end in three steps: one snapshot request, the
answer, and the reply with OK_REPLY where `B` fits, PayloadTooLarge and no reply where it does not. Its own payload
reaches no port. -/
def Obligations.GetOptionsRunsToItsReply : Prop :=
  ∀ (s : State) (k : Nat) (ss : Session) (v : Version) (P B R : Bytes) (rest : List BusInput) (us : List Turn),
    s.turns = .bus k :: .grant k :: .snapshotAck k B :: us → s.session? k = some ss → ss.Awaits v P →
    ss.inputs = .frame (0x01 :: P) :: rest → s.serOwner = none →
    R = [0x01] ++ B ++ List.replicate (frameSize v - 1 - B.length) s.cfg.replyPad →
      Host.Core.run Sys2Proof.core 3 s = .next (
        if B.length ≤ frameSize v - 1 then
          { s with
            turns := us
            sessions := s.sessions.set k
              { ss with
                inputs := rest, reply := some R, cmd := none, payload := none, phase := .idle
                status := some .okReply }
            events := s.events ++ [.snapshotIssued k, .snapshotReturned k B, .reply k R, .status k .okReply] }
        else
          { s with
            turns := us
            sessions := s.sessions.set k
              { ss with
                inputs := rest, reply := none, cmd := none, payload := none, phase := .idle
                status := some (.error (.payloadTooLarge (B.length + 1) (frameSize v))) }
            events := s.events ++ [.snapshotIssued k, .snapshotReturned k B,
              .status k (.error (.payloadTooLarge (B.length + 1) (frameSize v)))] })
end

