-- ==== Sys2Proof/Laws/Decode.lean ====
section
/-! SUPPORT. The tables and the decoder, characterised: which codes resolve to which commands, and what a decoded frame
says of its bytes. -/

namespace Sys2Proof

@[simp] theorem Verdict.map_accepted {α β : Type} (f : α → β) (a : α) :
    (Verdict.accepted a).map f = .accepted (f a) := rfl

@[simp] theorem Verdict.map_rejected {α β : Type} (f : α → β) (e : Err) :
    (Verdict.rejected e : Verdict α).map f = .rejected e := rfl

@[simp] theorem codeOf_commandFrame (tag : Tag) (P : Bytes) : codeOf (commandFrame tag P) = tag.code := rfl

@[simp] theorem payloadOf_commandFrame (tag : Tag) (P : Bytes) : payloadOf (commandFrame tag P) = P := rfl

@[simp] theorem length_commandFrame (tag : Tag) (P : Bytes) : (commandFrame tag P).length = P.length + 1 := rfl

theorem frameSize_pos (v : Version) : 0 < frameSize v := by cases v <;> decide

/-- A code resolves to a command exactly when it is the command's code and the command exists under the version. -/
theorem resolve_eq_some_iff (policy : Policy) (code : Byte) (v : Version) (tag : Tag) :
    resolve policy code v = some tag ↔ code = tag.code ∧ tag.inVersion policy v = true := by
  revert code
  cases policy <;> cases v <;> cases tag <;> decide

/-- A frame decodes to a command exactly when it is that command's frame, of the version's length. -/
theorem decodeFrame_eq_accepted_iff (policy : Policy) (F : Bytes) (v : Version) (tag : Tag) (P : Bytes) :
    decodeFrame policy F v = .accepted (tag, P) ↔
      F = commandFrame tag P ∧ payloadFits v P = true ∧ tag.inVersion policy v = true := by
  cases F with
  | nil => cases v <;> simp [decodeFrame, frameSize, commandFrame]
  | cons b Q =>
    have hpos := frameSize_pos v
    simp only [decodeFrame, codeOf, payloadOf, List.headD_cons, List.drop_succ_cons, List.drop_zero,
      List.length_cons, commandFrame, payloadFits, payloadLength, List.cons.injEq, beq_iff_eq]
    by_cases hl : Q.length + 1 = frameSize v
    · simp only [hl, ne_eq, not_true_eq_false, if_false]
      cases hr : resolve policy b v with
      | none =>
        have := resolve_eq_some_iff policy b v tag
        simp only [reduceCtorEq, false_iff]
        rintro ⟨⟨hb, _⟩, _, hv⟩
        rw [hr] at this
        simp [hb, hv] at this
      | some t =>
        have ht := (resolve_eq_some_iff policy b v t).1 hr
        simp only [Verdict.accepted.injEq, Prod.mk.injEq]
        constructor
        · rintro ⟨rfl, rfl⟩
          exact ⟨⟨ht.1, rfl⟩, by omega, ht.2⟩
        · rintro ⟨⟨hb, rfl⟩, _, hv⟩
          have := (resolve_eq_some_iff policy b v tag).2 ⟨hb, hv⟩
          rw [hr] at this
          exact ⟨Option.some.inj this, rfl⟩
    · simp only [ne_eq, hl, not_false_eq_true, if_true, reduceCtorEq, false_iff]
      rintro ⟨⟨_, rfl⟩, h, _⟩
      omega

/-- A protocol number is accepted exactly for its own version (R100). -/
theorem negotiateVersion_eq_accepted_iff (pn : Byte) (v : Version) :
    negotiateVersion pn = .accepted v ↔ pn = protocolNumber v := by
  revert pn
  cases v <;> decide

/-- The error a frame is rejected with (R117), and what it says of the frame. -/
theorem decodeFor_rejected {policy : Policy} {ver : Option Version} {F : Bytes} {e : Err}
    (h : decodeFor policy ver F = .rejected e) :
    (ver = none ∧ e = .noSession F.length) ∨
    (∃ v, ver = some v ∧ F.length ≠ frameSize v ∧ e = .frameLengthMismatch (frameSize v) F.length) ∨
    (∃ v, ver = some v ∧ F.length = frameSize v ∧ resolve policy (codeOf F) v = none ∧
      e = .unknownCommand (codeOf F)) := by
  cases ver with
  | none => exact .inl ⟨rfl, by simpa [decodeFor] using h.symm⟩
  | some v =>
    simp only [decodeFor, decodeFrame] at h
    split at h
    case isTrue hl => exact .inr (.inl ⟨v, rfl, hl, by simpa using h.symm⟩)
    case isFalse hl =>
      split at h
      case h_1 hr => exact .inr (.inr ⟨v, rfl, by simpa using hl, hr, by simpa using h.symm⟩)
      case h_2 => simp at h

/-- A frame that is accepted is a command's frame in a session with a version (R112, R117). -/
theorem decodeFor_accepted {policy : Policy} {ver : Option Version} {F : Bytes} {c : Tag × Bytes}
    (h : decodeFor policy ver F = .accepted c) :
    ∃ v, ver = some v ∧ F = commandFrame c.1 c.2 ∧ payloadFits v c.2 = true ∧ c.1.inVersion policy v = true := by
  cases ver with
  | none => simp [decodeFor] at h
  | some v => exact ⟨v, rfl, (decodeFrame_eq_accepted_iff ..).1 h⟩

end Sys2Proof
end

