-- ==== Sys2Proof/Laws/State.lean ====
section
/-! SUPPORT. One lemma for each field and each update of the state, so that no later proof unfolds a record update. -/

namespace Sys2Proof.Machine

section updSession
variable (k j : Nat) (f g : Session → Session) (s : State)

@[simp] theorem updSession_cfg : (updSession k f s).cfg = s.cfg := rfl
@[simp] theorem updSession_serOwner : (updSession k f s).serOwner = s.serOwner := rfl
@[simp] theorem updSession_events : (updSession k f s).events = s.events := rfl
@[simp] theorem updSession_turns : (updSession k f s).turns = s.turns := rfl
@[simp] theorem updSession_sessions : (updSession k f s).sessions = s.sessions.modify k f := rfl

@[simp] theorem updSession_nSessions : (updSession k f s).nSessions = s.nSessions := by
  simp [State.nSessions]

/-- Reading a session after an update: the update reaches session `k` and no other. -/
theorem session?_updSession :
    (updSession k f s).session? j = (s.session? j).map (fun ss => if k = j then f ss else ss) := by
  simp [State.session?, List.getElem?_modify]

@[simp] theorem session?_updSession_self : (updSession k f s).session? k = (s.session? k).map f := by
  simp [session?_updSession]

theorem session?_updSession_ne (h : k ≠ j) : (updSession k f s).session? j = s.session? j := by
  simp [session?_updSession, h]

@[simp] theorem updSession_updSession :
    updSession k g (updSession k f s) = updSession k (g ∘ f) s := by
  simp [updSession, List.modify_modify_eq]

/-- Where the block has session `k`, updating it is writing its place in the list. -/
theorem updSession_eq_set {ss : Session} (h : s.session? k = some ss) :
    updSession k f s = { s with sessions := s.sessions.set k (f ss) } := by
  simp only [State.session?] at h
  simp [updSession, List.modify_eq_set_getElem?, h]

end updSession

section emit
variable (es : List Event) (s : State)

@[simp] theorem emit_cfg : (emit es s).cfg = s.cfg := rfl
@[simp] theorem emit_sessions : (emit es s).sessions = s.sessions := rfl
@[simp] theorem emit_serOwner : (emit es s).serOwner = s.serOwner := rfl
@[simp] theorem emit_events : (emit es s).events = s.events ++ es := rfl
@[simp] theorem emit_turns : (emit es s).turns = s.turns := rfl
@[simp] theorem emit_session? (k : Nat) : (emit es s).session? k = s.session? k := rfl
@[simp] theorem emit_nSessions : (emit es s).nSessions = s.nSessions := rfl

end emit

section releaseSerializer
variable (k : Nat) (s : State)

@[simp] theorem releaseSerializer_cfg : (releaseSerializer k s).cfg = s.cfg := rfl
@[simp] theorem releaseSerializer_sessions : (releaseSerializer k s).sessions = s.sessions := rfl
@[simp] theorem releaseSerializer_serOwner : (releaseSerializer k s).serOwner = released k s.serOwner := rfl
@[simp] theorem releaseSerializer_events : (releaseSerializer k s).events = s.events := rfl
@[simp] theorem releaseSerializer_turns : (releaseSerializer k s).turns = s.turns := rfl
@[simp] theorem releaseSerializer_session? (j : Nat) : (releaseSerializer k s).session? j = s.session? j := rfl
@[simp] theorem releaseSerializer_nSessions : (releaseSerializer k s).nSessions = s.nSessions := rfl

end releaseSerializer

@[simp] theorem released_self (k : Nat) : released k (some k) = none := by simp [released]
@[simp] theorem released_none (k : Nat) : released k none = none := by simp [released]
theorem released_ne {k j : Nat} (h : j ≠ k) : released k (some j) = some j := by simp [released, h]

/-- Session `k` no longer holds the serializer after its release. -/
theorem released_ne_self (k : Nat) (o : Option Nat) : released k o ≠ some k := by
  unfold released; split <;> simp_all

section Session
variable (st : StatusRec) (e : Err) (ss : Session)

@[simp] theorem finish_ver : (ss.finish st).ver = ss.ver := rfl
@[simp] theorem finish_phase : (ss.finish st).phase = .idle := rfl
@[simp] theorem finish_cmd : (ss.finish st).cmd = none := rfl
@[simp] theorem finish_payload : (ss.finish st).payload = none := rfl
@[simp] theorem finish_status : (ss.finish st).status = some st := rfl
@[simp] theorem finish_reply : (ss.finish st).reply = ss.reply := rfl
@[simp] theorem finish_inputs : (ss.finish st).inputs = ss.inputs := rfl

@[simp] theorem cleanup_phase : (ss.cleanup e).phase = ss.phase := by cases e <;> rfl
@[simp] theorem cleanup_cmd : (ss.cleanup e).cmd = ss.cmd := by cases e <;> rfl
@[simp] theorem cleanup_payload : (ss.cleanup e).payload = ss.payload := by cases e <;> rfl
@[simp] theorem cleanup_status : (ss.cleanup e).status = ss.status := by cases e <;> rfl
@[simp] theorem cleanup_reply : (ss.cleanup e).reply = ss.reply := by cases e <;> rfl
@[simp] theorem cleanup_inputs : (ss.cleanup e).inputs = ss.inputs := by cases e <;> rfl

end Session

end Sys2Proof.Machine
end

