-- ==== Sys2Proof/Laws/Ops.lean ====
section
/-! SUPPORT. What each shared operation does, said once: each one changes one session, the serializer's owner and the
log, and these lemmas say how. -/

namespace Sys2Proof.Machine

/-- A state changed in session `k` by `f`, its log longer by `es`, and `k` no longer the serializer's owner: the shape
of every completed operation (R12). -/
theorem complete_eq (k : Nat) (st : StatusRec) (s : State) :
    complete k st s = releaseSerializer k (emit [.status k st] (updSession k (Session.finish st) s)) := rfl

/-- Taking an error changes the session by its clean-up and its record, and nothing else of it (R12, R210). -/
theorem raise_eq (k : Nat) (e : Err) (s : State) :
    raise k e s =
      releaseSerializer k (emit [.status k (.error e)]
        (updSession k (fun ss => (ss.cleanup e).finish (.error e)) s)) := by
  simp [raise, complete, Function.comp_def]

/-- An input found wrong loses the reply and raises its error (R101, R117). -/
theorem rejectInput_eq (k : Nat) (e : Err) (s : State) :
    rejectInput k e s =
      releaseSerializer k (emit [.status k (.error e)]
        (updSession k (fun ss => (({ ss with reply := none } : Session).cleanup e).finish (.error e)) s)) := by
  simp [rejectInput, raise_eq, clearReply, Function.comp_def]

/-- A successful negotiation sets the version, clears the reply, and completes (R101). -/
theorem setVersion_eq (k : Nat) (v : Version) (s : State) :
    setVersion k v s =
      releaseSerializer k (emit [.negotiated k v, .status k (.okNegotiated v)]
        (updSession k
          (fun ss => ({ ss with ver := some v, reply := none } : Session).finish (.okNegotiated v)) s)) := by
  simp [setVersion, complete, clearReply, emit, updSession, releaseSerializer, List.modify_modify_eq,
    Function.comp_def]

/-- A decoded command is put in flight in one session, with no output (R117). -/
theorem postCommand_eq (k : Nat) (c : Tag × Bytes) (s : State) :
    postCommand k c s =
      updSession k (fun ss =>
        { ss with reply := none, cmd := some c.1, payload := some c.2, phase := .waitGrant }) s := by
  simp [postCommand, clearReply, Function.comp_def]

/-- The apply answer `Ok` (R184). -/
theorem applyReturned_ok (k : Nat) (tag : Tag) (s : State) :
    applyReturned k tag .ok s =
      releaseSerializer k (emit [.applyReturned k .ok, .status k (.okApplied tag)]
        (updSession k (Session.finish (.okApplied tag)) s)) := by
  simp [applyReturned, complete, emit, updSession, releaseSerializer]

/-- The apply answer `Err(e)` (R184, R185): the session keeps its version. -/
theorem applyReturned_err (k : Nat) (tag : Tag) (e : ApplyErr) (s : State) :
    applyReturned k tag (.err e) s =
      releaseSerializer k (emit [.applyReturned k (.err e), .status k (.error (.applyError tag e))]
        (updSession k (Session.finish (.error (.applyError tag e))) s)) := by
  simp [applyReturned, raise_eq, Session.cleanup, emit, updSession, releaseSerializer]

/-- A snapshot that fits becomes the reply (R173). -/
theorem snapshotReturned_fits {k : Nat} {v : Version} {B R : Bytes} {s : State}
    (h : encodeReply s.cfg.replyPad B v = .accepted R) :
    snapshotReturned k v B s =
      releaseSerializer k (emit [.snapshotReturned k B, .reply k R, .status k .okReply]
        (updSession k (fun ss => ({ ss with reply := some R } : Session).finish .okReply) s)) := by
  simp [snapshotReturned, h, complete, emit, updSession, releaseSerializer, List.modify_modify_eq,
    Function.comp_def]

/-- A snapshot that does not fit aborts the reply (R174). -/
theorem snapshotReturned_tooLarge {k : Nat} {v : Version} {B : Bytes} {e : Err} {s : State}
    (h : encodeReply s.cfg.replyPad B v = .rejected e) :
    snapshotReturned k v B s =
      releaseSerializer k (emit [.snapshotReturned k B, .status k (.error e)]
        (updSession k (fun ss => (ss.cleanup e).finish (.error e)) s)) := by
  simp [snapshotReturned, h, raise_eq, emit, updSession, releaseSerializer]

@[simp] theorem resetBlock_cfg (s : State) : (resetBlock s).cfg = s.cfg := rfl
@[simp] theorem resetBlock_serOwner (s : State) : (resetBlock s).serOwner = none := rfl
@[simp] theorem resetBlock_events (s : State) : (resetBlock s).events = s.events ++ [.resetTaken] := rfl
@[simp] theorem resetBlock_turns (s : State) : (resetBlock s).turns = s.turns := rfl

@[simp] theorem resetBlock_nSessions (s : State) : (resetBlock s).nSessions = s.nSessions := by
  simp [resetBlock, State.nSessions]

@[simp] theorem resetBlock_session? (s : State) (k : Nat) :
    (resetBlock s).session? k = (s.session? k).map (fun ss => Session.cleared ss.inputs) := by
  simp [resetBlock, State.session?]

/-- A frame that an idle session rejects raises its error and nothing else (R117). -/
theorem receiveFrame_rejected {k : Nat} {F : Bytes} {s : State} {ss : Session} {e : Err}
    (hs : s.session? k = some ss) (hi : ss.phase = .idle) (hd : decodeFor s.cfg.policy ss.ver F = .rejected e) :
    receiveFrame k F s = .next (rejectInput k e s) := by
  simp [receiveFrame, hs, hi, hd]

/-- A frame that an idle session accepts puts its command in flight (R117). -/
theorem receiveFrame_accepted {k : Nat} {F : Bytes} {s : State} {ss : Session} {c : Tag × Bytes}
    (hs : s.session? k = some ss) (hi : ss.phase = .idle) (hd : decodeFor s.cfg.policy ss.ver F = .accepted c) :
    receiveFrame k F s = .next (postCommand k c s) := by
  simp [receiveFrame, hs, hi, hd]

theorem receiveFrame_busy {k : Nat} {F : Bytes} {s : State} {ss : Session}
    (hs : s.session? k = some ss) (hb : ss.phase ≠ .idle) :
    receiveFrame k F s = .next (holdInput k (.frame F) s) := by
  simp [receiveFrame, hs, hb]

/-- A protocol number that an idle session takes sets its version (R101). -/
theorem receiveNegotiation_accepted {k : Nat} {pn : Byte} {v : Version} {s : State} {ss : Session}
    (hs : s.session? k = some ss) (hi : ss.phase = .idle) (hn : negotiateVersion pn = .accepted v) :
    receiveNegotiation k pn s = .next (setVersion k v s) := by
  simp [receiveNegotiation, hs, hi, hn]

/-- Any other byte raises its error (R101, R103). -/
theorem receiveNegotiation_rejected {k : Nat} {pn : Byte} {e : Err} {s : State} {ss : Session}
    (hs : s.session? k = some ss) (hi : ss.phase = .idle) (hn : negotiateVersion pn = .rejected e) :
    receiveNegotiation k pn s = .next (rejectInput k e s) := by
  simp [receiveNegotiation, hs, hi, hn]

theorem receiveNegotiation_busy {k : Nat} {pn : Byte} {s : State} {ss : Session}
    (hs : s.session? k = some ss) (hb : ss.phase ≠ .idle) :
    receiveNegotiation k pn s = .next (holdInput k (.negotiate pn) s) := by
  simp [receiveNegotiation, hs, hb]

end Sys2Proof.Machine
end

