-- ==== Sys2Proof/Laws/Exec.lean ====
section
/-! SUPPORT. What `exec` does, said once: a negotiation input is received, a command's frame is received. -/

namespace Sys2Proof.Machine

/-- An instruction that is a command receives the command's frame (R80, R117). -/
theorem exec_command {i : Instr} {tag : Tag} {P : Bytes} (h : i.command = some (tag, P)) (s : State) :
    exec i s = receiveFrame i.session (commandFrame tag P) s := by
  cases i <;> cases h <;> rfl

/-- The instruction of a resolved command receives its frame. -/
theorem exec_ofCommand (k : Nat) (c : Tag × Bytes) (s : State) :
    exec (.ofCommand k c) s = receiveFrame k (commandFrame c.1 c.2) s := by
  obtain ⟨tag, P⟩ := c
  cases tag <;> rfl

/-- The instruction of a protocol number negotiates its version. -/
theorem exec_ofVersion (k : Nat) (v : Version) (s : State) :
    exec (.ofVersion k v) s = receiveNegotiation k (protocolNumber v) s := by
  cases v <;> rfl

/-- Every instruction is a negotiation or a command. -/
theorem Instr_cases (i : Instr) :
    (∃ k v, i = .ofVersion k v) ∨ (∃ k c, i = .ofCommand k c) := by
  cases i
  case negotiateV1 k => exact .inl ⟨k, .v1, rfl⟩
  case negotiateV2 k => exact .inl ⟨k, .v2, rfl⟩
  case timeUpdate k P => exact .inr ⟨k, (.timeUpdate, P), rfl⟩
  case getOptions k P => exact .inr ⟨k, (.getOptions, P), rfl⟩
  case setOption1224 k P => exact .inr ⟨k, (.setOption1224, P), rfl⟩
  case setOptionBlankLead k P => exact .inr ⟨k, (.setOptionBlankLead, P), rfl⟩
  case setOptionScrollback k P => exact .inr ⟨k, (.setOptionScrollback, P), rfl⟩
  case setOptionSuppressAcp k P => exact .inr ⟨k, (.setOptionSuppressAcp, P), rfl⟩
  case setOptionDateFormat k P => exact .inr ⟨k, (.setOptionDateFormat, P), rfl⟩
  case setOptionDayBlanking k P => exact .inr ⟨k, (.setOptionDayBlanking, P), rfl⟩
  case setOptionBlankStart k P => exact .inr ⟨k, (.setOptionBlankStart, P), rfl⟩
  case setOptionBlankEnd k P => exact .inr ⟨k, (.setOptionBlankEnd, P), rfl⟩
  case setOptionFadeSteps k P => exact .inr ⟨k, (.setOptionFadeSteps, P), rfl⟩
  case setOptionScrollSteps k P => exact .inr ⟨k, (.setOptionScrollSteps, P), rfl⟩
  case setOptionBacklightMode k P => exact .inr ⟨k, (.setOptionBacklightMode, P), rfl⟩
  case setOptionRedChannel k P => exact .inr ⟨k, (.setOptionRedChannel, P), rfl⟩
  case setOptionGreenChannel k P => exact .inr ⟨k, (.setOptionGreenChannel, P), rfl⟩
  case setOptionBlueChannel k P => exact .inr ⟨k, (.setOptionBlueChannel, P), rfl⟩
  case setOptionCycleSpeed k P => exact .inr ⟨k, (.setOptionCycleSpeed, P), rfl⟩
  case showIpAddr k P => exact .inr ⟨k, (.showIpAddr, P), rfl⟩
  case setOptionFade k P => exact .inr ⟨k, (.setOptionFade, P), rfl⟩
  case setOptionUseLdr k P => exact .inr ⟨k, (.setOptionUseLdr, P), rfl⟩
  case setOptionBlankMode k P => exact .inr ⟨k, (.setOptionBlankMode, P), rfl⟩
  case setOptionSlotsMode k P => exact .inr ⟨k, (.setOptionSlotsMode, P), rfl⟩
  case setOptionPirTimeout k P => exact .inr ⟨k, (.setOptionPirTimeout, P), rfl⟩
  case setOptionMinDimV1 k P => exact .inr ⟨k, (.setOptionMinDimV1, P), rfl⟩
  case showValue k P => exact .inr ⟨k, (.showValue, P), rfl⟩
  case showValueFormat k P => exact .inr ⟨k, (.showValueFormat, P), rfl⟩
  case setOptionMinDimV2 k P => exact .inr ⟨k, (.setOptionMinDimV2, P), rfl⟩

@[simp] theorem session_ofVersion (k : Nat) (v : Version) : (Instr.ofVersion k v).session = k := by cases v <;> rfl

@[simp] theorem session_ofCommand (k : Nat) (c : Tag × Bytes) : (Instr.ofCommand k c).session = k := by
  obtain ⟨tag, P⟩ := c
  cases tag <;> rfl

@[simp] theorem command_ofVersion (k : Nat) (v : Version) : (Instr.ofVersion k v).command = none := by cases v <;> rfl

@[simp] theorem command_ofCommand (k : Nat) (c : Tag × Bytes) : (Instr.ofCommand k c).command = some c := by
  obtain ⟨tag, P⟩ := c
  cases tag <;> rfl

@[simp] theorem encode_ofVersion (k : Nat) (v : Version) :
    encode (.ofVersion k v) = .negotiate (protocolNumber v) := by cases v <;> rfl

@[simp] theorem encode_ofCommand (k : Nat) (c : Tag × Bytes) :
    encode (.ofCommand k c) = .frame (commandFrame c.1 c.2) := by
  obtain ⟨tag, P⟩ := c
  cases tag <;> rfl

end Sys2Proof.Machine
end

