-- ==== Sys2Proof/Laws/Step.lean ====
section
/-! SUPPORT. Everything a step can do, said once: `step_took` lists the cases, and later proofs take a step apart by it. -/

namespace Sys2Proof.Machine

/-- What one turn does to a state, in which the turn itself is already used up. -/
inductive Took (s : State) : Turn → State → Prop where
  /-- the turn's step is not enabled, or there is no input to take (R13) -/
  | waited (u : Turn) : Took s u s
  /-- an input is taken and found wrong (R101, R117) -/
  | rejected {k : Nat} {ss : Session} {inp : BusInput} {rest : List BusInput} {e : Err}
      (hs : s.session? k = some ss) (hi : ss.phase = .idle) (hin : ss.inputs = inp :: rest)
      (hd : decodeInput s.cfg.policy ss.ver k inp = .rejected e) :
      Took s (.bus k) (rejectInput k e (popInput k s))
  /-- a protocol number is taken (R101) -/
  | negotiated {k : Nat} {ss : Session} {v : Version} {rest : List BusInput}
      (hs : s.session? k = some ss) (hi : ss.phase = .idle)
      (hin : ss.inputs = .negotiate (protocolNumber v) :: rest) :
      Took s (.bus k) (setVersion k v (popInput k s))
  /-- a frame is taken and its command put in flight (R117) -/
  | posted {k : Nat} {ss : Session} {F : Bytes} {rest : List BusInput} {c : Tag × Bytes}
      (hs : s.session? k = some ss) (hi : ss.phase = .idle) (hin : ss.inputs = .frame F :: rest)
      (hd : decodeFor s.cfg.policy ss.ver F = .accepted c) :
      Took s (.bus k) (postCommand k c (popInput k s))
  /-- the serializer grants a waiting session (R182) -/
  | granted {k : Nat} {ss : Session} {tag : Tag} {P : Bytes}
      (hs : s.session? k = some ss) (ho : s.serOwner = none) (hw : ss.phase = .waitGrant)
      (hc : ss.cmd = some tag) (hp : ss.payload = some P) :
      Took s (.grant k) (issue k (requestOf tag P) { s with serOwner := some k })
  /-- the write collaborator answers (R184) -/
  | applied {k : Nat} {ss : Session} {tag : Tag} {r : ApplyResult}
      (hs : s.session? k = some ss) (ha : ss.phase = .inApply) (hc : ss.cmd = some tag) :
      Took s (.applyAck k r) (applyReturned k tag r s)
  /-- the read collaborator answers (R173) -/
  | snapped {k : Nat} {ss : Session} {v : Version} {B : Bytes}
      (hs : s.session? k = some ss) (ha : ss.phase = .inSnapshot) (hv : ss.ver = some v) :
      Took s (.snapshotAck k B) (snapshotReturned k v B s)
  /-- the platform resets the block (R230) -/
  | reset : Took s .reset (resetBlock s)

/-- Taking the oldest input leaves the registers of the session as they are. -/
theorem session?_popInput (k : Nat) (s : State) (ss : Session) (h : s.session? k = some ss) :
    (popInput k s).session? k = some { ss with inputs := ss.inputs.tail } := by
  simp [popInput, h]

theorem took_of_grant {k : Nat} {s t : State} (h : grant k s = .next t) : Took s (.grant k) t := by
  simp only [grant] at h
  split at h
  · cases h
  case h_2 ss hs =>
    split at h
    case isTrue hg =>
      split at h
      case h_1 tag P hc hp => cases h; exact .granted hs hg.1 hg.2 hc hp
      case h_2 => cases h; exact .waited _
    case isFalse => cases h; exact .waited _

theorem took_of_applyAck {k : Nat} {r : ApplyResult} {s t : State} (h : applyAck k r s = .next t) :
    Took s (.applyAck k r) t := by
  simp only [applyAck] at h
  split at h
  · cases h
  case h_2 ss hs =>
    split at h
    case isTrue ha =>
      split at h
      case h_1 tag hc => cases h; exact .applied hs ha hc
      case h_2 => cases h; exact .waited _
    case isFalse => cases h; exact .waited _

theorem took_of_snapshotAck {k : Nat} {B : Bytes} {s t : State} (h : snapshotAck k B s = .next t) :
    Took s (.snapshotAck k B) t := by
  simp only [snapshotAck] at h
  split at h
  · cases h
  case h_2 ss hs =>
    split at h
    case isTrue ha =>
      split at h
      case h_1 v hv => cases h; exact .snapped hs ha hv
      case h_2 => cases h; exact .waited _
    case isFalse => cases h; exact .waited _

/-- The bus side's turn at an idle session with an input: decoded, and received (R101, R117). -/
theorem busTurn_idle {k : Nat} {s : State} {ss : Session} {inp : BusInput} {rest : List BusInput}
    (hs : s.session? k = some ss) (hi : ss.phase = .idle) (hin : ss.inputs = inp :: rest) :
    busTurn k s =
      match decodeInput s.cfg.policy ss.ver k inp with
      | .accepted i => .run i (popInput k s)
      | .rejected e => .done (.next (rejectInput k e (popInput k s))) := by
  simp only [busTurn, hs, hi, if_true]
  split
  case h_1 h0 => rw [hin] at h0; cases h0
  case h_2 a b h0 =>
    rw [hin] at h0
    cases h0
    rfl

/-- A turn that answers next has one of the effects of `Took`. -/
theorem took_of_turn {u : Turn} {s t : State}
    (h : (match takeTurn u s with | .run i s' => exec i s' | .done o => o) = .next t) : Took s u t := by
  cases u with
  | grant k => exact took_of_grant h
  | applyAck k r => exact took_of_applyAck h
  | snapshotAck k B => exact took_of_snapshotAck h
  | reset =>
    simp only [takeTurn, Host.Outcome.next.injEq] at h
    subst h
    exact .reset
  | bus k =>
    cases hs : s.session? k with
    | none => simp [takeTurn, busTurn, hs] at h
    | some ss =>
      by_cases hi : ss.phase = .idle
      · cases hin : ss.inputs with
        | nil =>
          simp only [takeTurn, busTurn, hs, hi, hin, if_true, Host.Outcome.next.injEq] at h
          subst h
          exact .waited _
        | cons inp rest =>
          simp only [takeTurn, busTurn_idle hs hi hin] at h
          have hs' := session?_popInput k s ss hs
          cases inp with
          | negotiate pn =>
            cases hn : negotiateVersion pn with
            | rejected e =>
              have hd : decodeInput s.cfg.policy ss.ver k (.negotiate pn) = .rejected e := by
                simp [decodeInput, hn]
              simp only [hd, Host.Outcome.next.injEq] at h
              subst h
              exact .rejected hs hi hin hd
            | accepted v =>
              have hpn := (negotiateVersion_eq_accepted_iff pn v).1 hn
              subst hpn
              simp only [decodeInput, hn, Verdict.map_accepted, exec_ofVersion] at h
              rw [receiveNegotiation_accepted hs' hi hn, Host.Outcome.next.injEq] at h
              subst h
              exact .negotiated hs hi hin
          | frame F =>
            cases hf : decodeFor s.cfg.policy ss.ver F with
            | rejected e =>
              have hd : decodeInput s.cfg.policy ss.ver k (.frame F) = .rejected e := by
                simp [decodeInput, hf]
              simp only [hd, Host.Outcome.next.injEq] at h
              subst h
              exact .rejected hs hi hin hd
            | accepted c =>
              simp only [decodeInput, hf, Verdict.map_accepted, exec_ofCommand] at h
              obtain ⟨v, _, hF, _, _⟩ := decodeFor_accepted hf
              rw [← hF, receiveFrame_accepted hs' hi hf, Host.Outcome.next.injEq] at h
              subst h
              exact .posted hs hi hin hf
      · simp only [takeTurn, busTurn, hs, hi, if_false, Host.Outcome.next.injEq] at h
        subst h
        exact .waited _

/-- Everything a step can do: with no turn to come it waits, and otherwise it uses up the first turn with one of the
effects of `Took`. -/
theorem step_took {s t : State} (h : step s = .next t) :
    (s.turns = [] ∧ t = s) ∨ ∃ u us, s.turns = u :: us ∧ Took { s with turns := us } u t := by
  unfold step nextMove at h
  cases hu : s.turns with
  | nil =>
    simp only [hu, Host.Outcome.next.injEq] at h
    exact .inl ⟨rfl, h.symm⟩
  | cons u us =>
    simp only [hu] at h
    exact .inr ⟨u, us, rfl, took_of_turn h⟩

end Sys2Proof.Machine
end

