-- ==== Sys2Proof/Laws/Change.lean ====
section
/-! SUPPORT. Everything a step can do, in the form proofs over every step use: a step waits, resets, or changes one
session, and `Change` lists what that session, the serializer's owner and the log become. -/

namespace Sys2Proof.Machine

/-- What a turn that is not a reset does, when it does anything, to its session `k` with the registers `ss`, under the
serializer's owner: the session after, the owner after, and the events appended. -/
inductive Change (cfg : Config) (owner : Option Nat) (k : Nat) (ss : Session) :
    Turn → Session → Option Nat → List Event → Prop where
  /-- an input found wrong (R101, R117) -/
  | rejected {inp : BusInput} {rest : List BusInput} {e : Err} (hi : ss.phase = .idle) (hin : ss.inputs = inp :: rest)
      (hd : decodeInput cfg.policy ss.ver k inp = .rejected e) :
      Change cfg owner k ss (.bus k)
        ((({ ss with inputs := rest, reply := none } : Session).cleanup e).finish (.error e))
        (released k owner) [.status k (.error e)]
  /-- a protocol number (R101) -/
  | negotiated {v : Version} {rest : List BusInput} (hi : ss.phase = .idle)
      (hin : ss.inputs = .negotiate (protocolNumber v) :: rest) :
      Change cfg owner k ss (.bus k)
        (({ ss with inputs := rest, ver := some v, reply := none } : Session).finish (.okNegotiated v))
        (released k owner) [.negotiated k v, .status k (.okNegotiated v)]
  /-- a command's frame (R117) -/
  | posted {v : Version} {tag : Tag} {P : Bytes} {rest : List BusInput} (hi : ss.phase = .idle)
      (hin : ss.inputs = .frame (commandFrame tag P) :: rest) (hv : ss.ver = some v) (hP : payloadFits v P = true)
      (ht : tag.inVersion cfg.policy v = true) :
      Change cfg owner k ss (.bus k)
        { ss with inputs := rest, reply := none, cmd := some tag, payload := some P, phase := .waitGrant } owner []
  /-- a write command granted (R183) -/
  | applyIssued {tag : Tag} {P : Bytes} (ho : owner = none) (hw : ss.phase = .waitGrant) (hc : ss.cmd = some tag)
      (hp : ss.payload = some P) (ht : tag.isWrite = true) :
      Change cfg owner k ss (.grant k) { ss with phase := .inApply } (some k) [.applyIssued k tag P]
  /-- GET_OPTIONS granted (R183) -/
  | snapshotIssued (ho : owner = none) (hw : ss.phase = .waitGrant) (hc : ss.cmd = some .getOptions) :
      Change cfg owner k ss (.grant k) { ss with phase := .inSnapshot } (some k) [.snapshotIssued k]
  /-- the write collaborator's `Ok` (R184) -/
  | appliedOk {tag : Tag} (ha : ss.phase = .inApply) (hc : ss.cmd = some tag) :
      Change cfg owner k ss (.applyAck k .ok) (ss.finish (.okApplied tag)) (released k owner)
        [.applyReturned k .ok, .status k (.okApplied tag)]
  /-- the write collaborator's `Err(e)` (R184, R185) -/
  | appliedErr {tag : Tag} {e : ApplyErr} (ha : ss.phase = .inApply) (hc : ss.cmd = some tag) :
      Change cfg owner k ss (.applyAck k (.err e)) (ss.finish (.error (.applyError tag e))) (released k owner)
        [.applyReturned k (.err e), .status k (.error (.applyError tag e))]
  /-- a snapshot that fits (R173) -/
  | replied {v : Version} {B : Bytes} (ha : ss.phase = .inSnapshot) (hv : ss.ver = some v)
      (hB : B.length ≤ frameSize v - 1) :
      Change cfg owner k ss (.snapshotAck k B)
        (({ ss with
            reply := some ([0x01] ++ B ++ List.replicate (frameSize v - 1 - B.length) cfg.replyPad) } : Session).finish
          .okReply)
        (released k owner)
        [.snapshotReturned k B,
          .reply k ([0x01] ++ B ++ List.replicate (frameSize v - 1 - B.length) cfg.replyPad), .status k .okReply]
  /-- a snapshot that does not fit (R174) -/
  | tooLarge {v : Version} {B : Bytes} (ha : ss.phase = .inSnapshot) (hv : ss.ver = some v)
      (hB : frameSize v - 1 < B.length) :
      Change cfg owner k ss (.snapshotAck k B) (ss.finish (.error (.payloadTooLarge (B.length + 1) (frameSize v))))
        (released k owner)
        [.snapshotReturned k B, .status k (.error (.payloadTooLarge (B.length + 1) (frameSize v)))]

/-- A state after one turn: the turns that are left, session `k` written, the owner, and the log longer by `es`. -/
def State.changed (s : State) (us : List Turn) (k : Nat) (x : Session) (o : Option Nat) (es : List Event) : State :=
  { s with turns := us, sessions := s.sessions.set k x, serOwner := o, events := s.events ++ es }

section changed
variable (s : State) (us : List Turn) (k : Nat) (x : Session) (o : Option Nat) (es : List Event)

@[simp] theorem changed_cfg : (s.changed us k x o es).cfg = s.cfg := rfl
@[simp] theorem changed_turns : (s.changed us k x o es).turns = us := rfl
@[simp] theorem changed_serOwner : (s.changed us k x o es).serOwner = o := rfl
@[simp] theorem changed_events : (s.changed us k x o es).events = s.events ++ es := rfl
@[simp] theorem changed_sessions : (s.changed us k x o es).sessions = s.sessions.set k x := rfl

@[simp] theorem changed_nSessions : (s.changed us k x o es).nSessions = s.nSessions := by
  simp [State.changed, State.nSessions]

theorem session?_changed_self {ss : Session} (h : s.session? k = some ss) :
    (s.changed us k x o es).session? k = some x := by
  have hk := (List.getElem?_eq_some_iff.1 h).1
  simp [State.changed, State.session?, hk]

theorem session?_changed_ne {j : Nat} (h : j ≠ k) : (s.changed us k x o es).session? j = s.session? j := by
  simp [State.changed, State.session?, h.symm]

end changed

/-- Every effect of `Took` is a wait, a reset, or a change of one session. -/
theorem Took.change {s t : State} {u : Turn} (h : Took s u t) :
    t = s ∨ (u = .reset ∧ t = resetBlock s) ∨
    ∃ k ss x o es, s.session? k = some ss ∧ u.session? = some k ∧ Change s.cfg s.serOwner k ss u x o es ∧
      t = s.changed s.turns k x o es := by
  cases h with
  | waited => exact .inl rfl
  | reset => exact .inr (.inl ⟨rfl, rfl⟩)
  | @rejected k ss inp rest e hs hi hin hd =>
    refine .inr (.inr ⟨k, ss, _, _, _, hs, rfl, .rejected hi hin hd, ?_⟩)
    rw [rejectInput_eq, popInput, updSession_updSession, updSession_eq_set _ _ _ hs]
    simp only [Function.comp_apply, hin, List.tail_cons]
    rfl
  | @negotiated k ss v rest hs hi hin =>
    refine .inr (.inr ⟨k, ss, _, _, _, hs, rfl, .negotiated hi hin, ?_⟩)
    rw [setVersion_eq, popInput, updSession_updSession, updSession_eq_set _ _ _ hs]
    simp only [Function.comp_apply, hin, List.tail_cons]
    rfl
  | @posted k ss F rest c hs hi hin hd =>
    obtain ⟨v, hv, rfl, hP, ht⟩ := decodeFor_accepted hd
    refine .inr (.inr ⟨k, ss, _, _, _, hs, rfl, .posted hi hin hv hP ht, ?_⟩)
    rw [postCommand_eq, popInput, updSession_updSession, updSession_eq_set _ _ _ hs]
    simp only [Function.comp_apply, hin, List.tail_cons, State.changed, List.append_nil]
  | @granted k ss tag P hs ho hw hc hp =>
    have hs' : ({ s with serOwner := some k } : State).session? k = some ss := hs
    by_cases ht : tag.isWrite = true
    · refine .inr (.inr ⟨k, ss, _, _, _, hs, rfl, .applyIssued ho hw hc hp ht, ?_⟩)
      simp only [requestOf, ht, if_true, issue]
      rw [updSession_eq_set _ _ _ hs']
      rfl
    · have hg : tag = .getOptions := by cases tag <;> simp_all [Tag.isWrite]
      subst hg
      refine .inr (.inr ⟨k, ss, _, _, _, hs, rfl, .snapshotIssued ho hw hc, ?_⟩)
      simp only [requestOf, ht, issue]
      rw [updSession_eq_set _ _ _ hs']
      rfl
  | @applied k ss tag r hs ha hc =>
    cases r with
    | ok =>
      refine .inr (.inr ⟨k, ss, _, _, _, hs, rfl, .appliedOk ha hc, ?_⟩)
      rw [applyReturned_ok, updSession_eq_set _ _ _ hs]
      rfl
    | err e =>
      refine .inr (.inr ⟨k, ss, _, _, _, hs, rfl, .appliedErr ha hc, ?_⟩)
      rw [applyReturned_err, updSession_eq_set _ _ _ hs]
      rfl
  | @snapped k ss v B hs ha hv =>
    by_cases hB : B.length ≤ frameSize v - 1
    · refine .inr (.inr ⟨k, ss, _, _, _, hs, rfl, .replied ha hv hB, ?_⟩)
      rw [snapshotReturned_fits (if_neg (by omega)), updSession_eq_set _ _ _ hs]
      rfl
    · refine .inr (.inr ⟨k, ss, _, _, _, hs, rfl, .tooLarge ha hv (by omega), ?_⟩)
      rw [snapshotReturned_tooLarge (if_pos (by omega)), updSession_eq_set _ _ _ hs]
      rfl

/-- Everything a step can do. -/
theorem step_change {s t : State} (h : step s = .next t) :
    t = { s with turns := s.turns.tail } ∨
    (∃ us, s.turns = .reset :: us ∧ t = resetBlock { s with turns := us }) ∨
    ∃ u us k ss x o es, s.turns = u :: us ∧ s.session? k = some ss ∧ u.session? = some k ∧
      Change s.cfg s.serOwner k ss u x o es ∧ t = s.changed us k x o es := by
  rcases step_took h with ⟨hn, rfl⟩ | ⟨u, us, hu, hT⟩
  · exact .inl (by cases t; simp_all)
  · rcases hT.change with rfl | ⟨rfl, rfl⟩ | ⟨k, ss, x, o, es, h1, h2, h3, h4⟩
    · exact .inl (by simp [hu])
    · exact .inr (.inl ⟨us, hu, rfl⟩)
    · exact .inr (.inr ⟨u, us, k, ss, x, o, es, hu, h1, h2, h3, h4⟩)

end Sys2Proof.Machine
end

