-- ==== Sys2Proof/Laws/PerInstr.lean ====
section
/-! SUPPORT. A family of lemmas, one for each instruction: a well-formed command is encoded as one frame of its
version's frame size whose first byte is the command's code, and a negotiation input as one byte. -/

namespace Sys2Proof.Laws

/-- What an encoded instruction looks like on the wire (R70, R78). -/
def CodedLength.Statement (i : Instr) : Prop :=
  ∀ policy v, i.wellFormed policy v = true →
    match encode i with
    | .negotiate pn => ∃ w, pn = protocolNumber w
    | .frame F => F.length = frameSize v ∧ ∃ tag P, i.command = some (tag, P) ∧ codeOf F = tag.code

/-- The command's case of the statement. -/
theorem CodedLength.of_command {i : Instr} {tag : Tag} {P : Bytes} (hc : i.command = some (tag, P))
    (he : encode i = .frame (commandFrame tag P)) : CodedLength.Statement i := by
  intro policy v h
  have hpos := frameSize_pos v
  simp only [Instr.wellFormed, hc, payloadFits, payloadLength, Bool.and_eq_true, beq_iff_eq] at h
  simp only [he, length_commandFrame, codeOf_commandFrame]
  exact ⟨by omega, tag, P, hc, rfl⟩

theorem CodedLength.negotiateV1 (k : Nat) : CodedLength.Statement (.negotiateV1 k) :=
  fun _ _ _ => ⟨.v1, rfl⟩

theorem CodedLength.negotiateV2 (k : Nat) : CodedLength.Statement (.negotiateV2 k) :=
  fun _ _ _ => ⟨.v2, rfl⟩

theorem CodedLength.timeUpdate (k : Nat) (P : Bytes) : CodedLength.Statement (.timeUpdate k P) :=
  CodedLength.of_command rfl rfl

theorem CodedLength.getOptions (k : Nat) (P : Bytes) : CodedLength.Statement (.getOptions k P) :=
  CodedLength.of_command rfl rfl

theorem CodedLength.setOption1224 (k : Nat) (P : Bytes) : CodedLength.Statement (.setOption1224 k P) :=
  CodedLength.of_command rfl rfl

theorem CodedLength.setOptionBlankLead (k : Nat) (P : Bytes) : CodedLength.Statement (.setOptionBlankLead k P) :=
  CodedLength.of_command rfl rfl

theorem CodedLength.setOptionScrollback (k : Nat) (P : Bytes) : CodedLength.Statement (.setOptionScrollback k P) :=
  CodedLength.of_command rfl rfl

theorem CodedLength.setOptionSuppressAcp (k : Nat) (P : Bytes) : CodedLength.Statement (.setOptionSuppressAcp k P) :=
  CodedLength.of_command rfl rfl

theorem CodedLength.setOptionDateFormat (k : Nat) (P : Bytes) : CodedLength.Statement (.setOptionDateFormat k P) :=
  CodedLength.of_command rfl rfl

theorem CodedLength.setOptionDayBlanking (k : Nat) (P : Bytes) : CodedLength.Statement (.setOptionDayBlanking k P) :=
  CodedLength.of_command rfl rfl

theorem CodedLength.setOptionBlankStart (k : Nat) (P : Bytes) : CodedLength.Statement (.setOptionBlankStart k P) :=
  CodedLength.of_command rfl rfl

theorem CodedLength.setOptionBlankEnd (k : Nat) (P : Bytes) : CodedLength.Statement (.setOptionBlankEnd k P) :=
  CodedLength.of_command rfl rfl

theorem CodedLength.setOptionFadeSteps (k : Nat) (P : Bytes) : CodedLength.Statement (.setOptionFadeSteps k P) :=
  CodedLength.of_command rfl rfl

theorem CodedLength.setOptionScrollSteps (k : Nat) (P : Bytes) : CodedLength.Statement (.setOptionScrollSteps k P) :=
  CodedLength.of_command rfl rfl

theorem CodedLength.setOptionBacklightMode (k : Nat) (P : Bytes) : CodedLength.Statement (.setOptionBacklightMode k P) :=
  CodedLength.of_command rfl rfl

theorem CodedLength.setOptionRedChannel (k : Nat) (P : Bytes) : CodedLength.Statement (.setOptionRedChannel k P) :=
  CodedLength.of_command rfl rfl

theorem CodedLength.setOptionGreenChannel (k : Nat) (P : Bytes) : CodedLength.Statement (.setOptionGreenChannel k P) :=
  CodedLength.of_command rfl rfl

theorem CodedLength.setOptionBlueChannel (k : Nat) (P : Bytes) : CodedLength.Statement (.setOptionBlueChannel k P) :=
  CodedLength.of_command rfl rfl

theorem CodedLength.setOptionCycleSpeed (k : Nat) (P : Bytes) : CodedLength.Statement (.setOptionCycleSpeed k P) :=
  CodedLength.of_command rfl rfl

theorem CodedLength.showIpAddr (k : Nat) (P : Bytes) : CodedLength.Statement (.showIpAddr k P) :=
  CodedLength.of_command rfl rfl

theorem CodedLength.setOptionFade (k : Nat) (P : Bytes) : CodedLength.Statement (.setOptionFade k P) :=
  CodedLength.of_command rfl rfl

theorem CodedLength.setOptionUseLdr (k : Nat) (P : Bytes) : CodedLength.Statement (.setOptionUseLdr k P) :=
  CodedLength.of_command rfl rfl

theorem CodedLength.setOptionBlankMode (k : Nat) (P : Bytes) : CodedLength.Statement (.setOptionBlankMode k P) :=
  CodedLength.of_command rfl rfl

theorem CodedLength.setOptionSlotsMode (k : Nat) (P : Bytes) : CodedLength.Statement (.setOptionSlotsMode k P) :=
  CodedLength.of_command rfl rfl

theorem CodedLength.setOptionPirTimeout (k : Nat) (P : Bytes) : CodedLength.Statement (.setOptionPirTimeout k P) :=
  CodedLength.of_command rfl rfl

theorem CodedLength.setOptionMinDimV1 (k : Nat) (P : Bytes) : CodedLength.Statement (.setOptionMinDimV1 k P) :=
  CodedLength.of_command rfl rfl

theorem CodedLength.showValue (k : Nat) (P : Bytes) : CodedLength.Statement (.showValue k P) :=
  CodedLength.of_command rfl rfl

theorem CodedLength.showValueFormat (k : Nat) (P : Bytes) : CodedLength.Statement (.showValueFormat k P) :=
  CodedLength.of_command rfl rfl

theorem CodedLength.setOptionMinDimV2 (k : Nat) (P : Bytes) : CodedLength.Statement (.setOptionMinDimV2 k P) :=
  CodedLength.of_command rfl rfl

end Sys2Proof.Laws
end

