-- ==== Sys2Proof/Laws/Safety.lean ====
section
/-! SUPPORT. The operations in the terms of the statements: an operation that ends leaves the state `closed`, a command
that is taken leaves it `inFlight`; and the invariants of R36 read for one session. -/

namespace Sys2Proof.Machine

/-- A session that the block has is one of its `N_SESSIONS`. -/
theorem lt_of_session? {s : State} {k : Nat} {ss : Session} (h : s.session? k = some ss) : k < s.nSessions := by
  simp only [State.session?] at h
  exact (List.getElem?_eq_some_iff.1 h).1

/-- A number below `N_SESSIONS` names a session. -/
theorem session?_of_lt {s : State} {k : Nat} (h : k < s.nSessions) : ∃ ss, s.session? k = some ss :=
  ⟨_, List.getElem?_eq_some_iff.2 ⟨h, rfl⟩⟩

/-- The block has no session from `N_SESSIONS` on. -/
theorem session?_of_ge {s : State} {k : Nat} (h : s.nSessions ≤ k) : s.session? k = none := by
  simpa [State.session?, State.nSessions] using h

/-- Every operation that ends in `complete` or `raise` leaves the state closed (R12). -/
theorem close_eq {s : State} {k : Nat} {ss : Session} (h : s.session? k = some ss) (f : Session → Session)
    (es : List Event) (st : StatusRec) :
    releaseSerializer k (emit (es ++ [.status k st]) (updSession k (fun x => (f x).finish st) s)) =
      s.closed k (f ss) es st := by
  rw [updSession_eq_set _ _ _ h]
  simp only [State.closed, releaseSerializer, emit, released, Session.finish, List.append_assoc]
  rfl

/-- An error of a frame (not a negotiation's) only clears the reply and closes the operation (R119, R207). -/
theorem rejectInput_closed {s : State} {k : Nat} {ss : Session} (h : s.session? k = some ss) {e : Err}
    (he : ∀ pn, e ≠ .unsupportedProtocol pn) :
    rejectInput k e s = s.closed k { ss with reply := none } [] (.error e) := by
  rw [rejectInput_eq]
  refine (close_eq h (fun x => ({ x with reply := none } : Session).cleanup e) [] (.error e)).trans ?_
  cases e <;> first | rfl | exact absurd rfl (he _)

/-- A successful negotiation closes the operation with its version (R101). -/
theorem setVersion_closed {s : State} {k : Nat} {ss : Session} (h : s.session? k = some ss) (v : Version) :
    setVersion k v s =
      s.closed k { ss with reply := none, ver := some v } [.negotiated k v] (.okNegotiated v) := by
  rw [setVersion_eq]
  exact close_eq h (fun x => ({ x with ver := some v, reply := none } : Session)) [.negotiated k v] _

/-- A decoded command is in flight (R117). -/
theorem postCommand_inFlight {s : State} {k : Nat} {ss : Session} (h : s.session? k = some ss) (c : Tag × Bytes) :
    postCommand k c s = s.inFlight k ss c.1 c.2 := by
  rw [postCommand_eq, updSession_eq_set _ _ _ h]
  rfl

/-- A held input stands last at its port (R236). -/
theorem holdInput_set {s : State} {k : Nat} {ss : Session} (h : s.session? k = some ss) (inp : BusInput) :
    holdInput k inp s = { s with sessions := s.sessions.set k { ss with inputs := ss.inputs ++ [inp] } } := by
  rw [holdInput, updSession_eq_set _ _ _ h]

/-- Taking the oldest input writes the rest of them back. -/
theorem popInput_set {s : State} {k : Nat} {ss : Session} {inp : BusInput} {rest : List BusInput}
    (h : s.session? k = some ss) (hin : ss.inputs = inp :: rest) :
    popInput k s = { s with sessions := s.sessions.set k { ss with inputs := rest } } := by
  rw [popInput, updSession_eq_set _ _ _ h, hin]
  rfl

/-- The closed session, read back. -/
theorem session?_closed {s : State} {k : Nat} {ss : Session} (h : s.session? k = some ss) (x : Session)
    (es : List Event) (st : StatusRec) :
    (s.closed k x es st).session? k =
      some { x with status := some st, phase := .idle, cmd := none, payload := none } := by
  have hk := lt_of_session? h
  simp only [State.nSessions] at hk
  simp [State.closed, State.session?, hk]

/-- Closing an operation of session `k` leaves every other session as it was. -/
theorem session?_closed_ne {s : State} {k j : Nat} (hj : j ≠ k) (x : Session) (es : List Event) (st : StatusRec) :
    (s.closed k x es st).session? j = s.session? j := by
  simp [State.closed, State.session?, hj.symm]

/-- A command's frame, in a session that awaits it and under a version that has the command, is accepted (R117). -/
theorem receiveFrame_awaits {s : State} {k : Nat} {ss : Session} {v : Version} {P : Bytes} {tag : Tag}
    (h : s.session? k = some ss) (ha : ss.Awaits v P) (hv : tag.inVersion s.cfg.policy v = true) :
    receiveFrame k (commandFrame tag P) s = .next (s.inFlight k ss tag P) := by
  obtain ⟨hi, hver, hP⟩ := ha
  have hd : decodeFor s.cfg.policy ss.ver (commandFrame tag P) = .accepted (tag, P) := by
    rw [hver]
    exact (decodeFrame_eq_accepted_iff ..).2 ⟨rfl, by simpa [payloadFits, payloadLength] using hP, hv⟩
  rw [receiveFrame_accepted h hi hd, postCommand_inFlight h]

/-- The invariants of R36, session by session, with those of the whole block (R9, R29). -/
theorem State.inv_iff (s : State) :
    s.Inv ↔ (∀ k ss, s.session? k = some ss → SessionOk k s.serOwner ss) ∧ (∀ k ∈ s.serOwner, k < s.nSessions) ∧
      1 ≤ s.nSessions := by
  refine and_congr_left fun _ => ⟨fun h k ss hs => h (ss, k) ?_, fun h p hp => h p.2 p.1 ?_⟩
  · simpa [State.session?, List.mem_zipIdx_iff_getElem?] using hs
  · simpa [State.session?, List.mem_zipIdx_iff_getElem?] using hp

/-- The invariants of R36, for a session the block has. -/
theorem State.Inv.session {s : State} (hI : s.Inv) {k : Nat} {ss : Session} (h : s.session? k = some ss) :
    SessionOk k s.serOwner ss :=
  (s.inv_iff.1 hI).1 k ss h

/-- An idle session does not hold the serializer (R36). -/
theorem State.Inv.owner_ne_of_idle {s : State} (hI : s.Inv) {k : Nat} {ss : Session} (h : s.session? k = some ss)
    (hi : ss.phase = .idle) : s.serOwner ≠ some k := by
  intro ho
  have := (hI.session h).2.2.2.1.2 ho
  simp [hi] at this

end Sys2Proof.Machine
end

