-- ==== Sys2Proof/Tests/Slice0.lean ====
section
/-! SUPPORT. The model's own tests. Expected results come from the encodings of spec/30_encoding.md, the examples of
spec/42_dispatch.md and the vectors of spec/95_test_vectors.md, each named where it is used. The theorems named
`witness_<Name>` show states and operands that meet the hypotheses of `Obligations.<Name>`. -/

namespace Sys2Proof.Tests

open Sys2Proof Sys2Proof.Machine

/-! ### The small states the tests use -/

/-- `n` zero bytes, the spec's `00×n`. -/
def zeros (n : Nat) : Bytes := List.replicate n 0

/-- An idle session of the version, with the inputs at its port. -/
def idle (ver : Option Version) (inputs : List BusInput) : Session :=
  { Session.cleared inputs with ver := ver }

/-- A session with a command in flight, in the given phase. -/
def busy (v : Version) (phase : Phase) (tag : Tag) (P : Bytes) : Session :=
  { Session.cleared [] with ver := some v, phase := phase, cmd := some tag, payload := some P }

/-- A block with the reference padding and an empty log. -/
def block (policy : Policy) (owner : Option Nat) (turns : List Turn) (sessions : List Session) : State where
  cfg := { policy := policy, replyPad := 0x00 }
  sessions := sessions
  serOwner := owner
  events := []
  turns := turns

/-- One idle session with one input at its port, whose turn is next; the policy is ACCEPT. -/
def receiving (ver : Option Version) (inp : BusInput) : State :=
  block .accept none [.bus 0] [idle ver [inp]]

/-- An outcome is a next state that passes the test. -/
def nextIs (o : Out) (p : State → Bool) : Bool :=
  match o with
  | .next t => p t
  | .fault _ => false
  | .refused _ => false

/-- Session 0 waits with the command and its payload, nothing is logged, and the serializer is free. -/
def waitsWith (tag : Tag) (P : Bytes) (t : State) : Bool :=
  (t.session? 0).all (fun ss => ss.phase == .waitGrant && ss.cmd == some tag && ss.payload == some P) &&
    (t.session? 0).isSome && t.events == [] && t.serOwner == none

/-- Session 0 is idle with the version and the status, has no reply, and the log holds these events. -/
def endsWith (ver : Option Version) (st : StatusRec) (es : List Event) (t : State) : Bool :=
  t.session? 0 == some { Session.cleared [] with ver := ver, status := some st } && t.events == es &&
    t.serOwner == none

/-! ### WellFormed refuses -/

/-- R70: the payload of V1 is 21 bytes, that of V2 is 23. -/
theorem test_wellFormed_length :
    (Instr.timeUpdate 0 (zeros 20)).wellFormed .accept .v1 = false ∧
    (Instr.timeUpdate 0 (zeros 22)).wellFormed .accept .v1 = false ∧
    (Instr.timeUpdate 0 (zeros 21)).wellFormed .accept .v2 = false ∧
    (Instr.timeUpdate 0 (zeros 24)).wellFormed .accept .v2 = false ∧
    (Instr.timeUpdate 0 (zeros 21)).wellFormed .accept .v1 = true ∧
    (Instr.timeUpdate 0 (zeros 23)).wellFormed .accept .v2 = true := by decide

/-- R75: each command of code 0x16 exists under one version only. -/
theorem test_wellFormed_0x16 :
    (Instr.setOptionPirTimeout 0 (zeros 21)).wellFormed .accept .v1 = false ∧
    (Instr.setOptionMinDimV1 0 (zeros 23)).wellFormed .accept .v2 = false := by decide

/-- R76: SET_OPTION_MIN_DIM_V2 does not exist under V1 where the policy rejects it. -/
theorem test_wellFormed_0x19 :
    (Instr.setOptionMinDimV2 0 (zeros 21)).wellFormed .reject .v1 = false ∧
    (Instr.setOptionMinDimV2 0 (zeros 21)).wellFormed .accept .v1 = true ∧
    (Instr.setOptionMinDimV2 0 (zeros 23)).wellFormed .reject .v2 = true := by decide

/-! ### Decoding, one word for each constructor (R74, R78; the examples of 42_dispatch.md) -/

/-- R100, W3: the byte 54. -/
theorem test_decode_negotiateV1 : decodeInput .accept none 0 (.negotiate 0x36) = .accepted (.negotiateV1 0) := by
  decide

/-- R100, W4: the byte 62. -/
theorem test_decode_negotiateV2 : decodeInput .accept none 0 (.negotiate 0x3E) = .accepted (.negotiateV2 0) := by
  decide

/-- R133: `FRM 00 01 00×22` under V2. -/
theorem test_decode_timeUpdate :
    decodeInput .accept (some .v2) 0 (.frame ([0x00, 0x01] ++ zeros 22)) = .accepted (.timeUpdate 0 (0x01 :: zeros 22)) := by decide

/-- R134: `FRM 01 00×23` under V2. -/
theorem test_decode_getOptions :
    decodeInput .accept (some .v2) 0 (.frame ([0x01] ++ zeros 23)) = .accepted (.getOptions 0 (zeros 23)) := by decide

/-- R135: `FRM 02 01 00×20` under V1. -/
theorem test_decode_setOption1224 :
    decodeInput .accept (some .v1) 0 (.frame ([0x02, 0x01] ++ zeros 20)) = .accepted (.setOption1224 0 (0x01 :: zeros 20)) := by decide

/-- R136: `FRM 03 01 00×22` under V2. -/
theorem test_decode_setOptionBlankLead :
    decodeInput .accept (some .v2) 0 (.frame ([0x03, 0x01] ++ zeros 22)) = .accepted (.setOptionBlankLead 0 (0x01 :: zeros 22)) := by decide

/-- R137: `FRM 04 01 00×20` under V1. -/
theorem test_decode_setOptionScrollback :
    decodeInput .accept (some .v1) 0 (.frame ([0x04, 0x01] ++ zeros 20)) = .accepted (.setOptionScrollback 0 (0x01 :: zeros 20)) := by decide

/-- R138: `FRM 05 01 00×22` under V2. -/
theorem test_decode_setOptionSuppressAcp :
    decodeInput .accept (some .v2) 0 (.frame ([0x05, 0x01] ++ zeros 22)) = .accepted (.setOptionSuppressAcp 0 (0x01 :: zeros 22)) := by decide

/-- R139: `FRM 06 01 00×20` under V1. -/
theorem test_decode_setOptionDateFormat :
    decodeInput .accept (some .v1) 0 (.frame ([0x06, 0x01] ++ zeros 20)) = .accepted (.setOptionDateFormat 0 (0x01 :: zeros 20)) := by decide

/-- R140: `FRM 07 01 00×22` under V2. -/
theorem test_decode_setOptionDayBlanking :
    decodeInput .accept (some .v2) 0 (.frame ([0x07, 0x01] ++ zeros 22)) = .accepted (.setOptionDayBlanking 0 (0x01 :: zeros 22)) := by decide

/-- R141: `FRM 08 01 00×20` under V1. -/
theorem test_decode_setOptionBlankStart :
    decodeInput .accept (some .v1) 0 (.frame ([0x08, 0x01] ++ zeros 20)) = .accepted (.setOptionBlankStart 0 (0x01 :: zeros 20)) := by decide

/-- R142: `FRM 09 01 00×22` under V2. -/
theorem test_decode_setOptionBlankEnd :
    decodeInput .accept (some .v2) 0 (.frame ([0x09, 0x01] ++ zeros 22)) = .accepted (.setOptionBlankEnd 0 (0x01 :: zeros 22)) := by decide

/-- R143: `FRM 0A 01 00×20` under V1. -/
theorem test_decode_setOptionFadeSteps :
    decodeInput .accept (some .v1) 0 (.frame ([0x0A, 0x01] ++ zeros 20)) = .accepted (.setOptionFadeSteps 0 (0x01 :: zeros 20)) := by decide

/-- R144: `FRM 0B 01 00×22` under V2. -/
theorem test_decode_setOptionScrollSteps :
    decodeInput .accept (some .v2) 0 (.frame ([0x0B, 0x01] ++ zeros 22)) = .accepted (.setOptionScrollSteps 0 (0x01 :: zeros 22)) := by decide

/-- R145: `FRM 0C 01 00×20` under V1. -/
theorem test_decode_setOptionBacklightMode :
    decodeInput .accept (some .v1) 0 (.frame ([0x0C, 0x01] ++ zeros 20)) = .accepted (.setOptionBacklightMode 0 (0x01 :: zeros 20)) := by decide

/-- R146: `FRM 0D 01 00×22` under V2. -/
theorem test_decode_setOptionRedChannel :
    decodeInput .accept (some .v2) 0 (.frame ([0x0D, 0x01] ++ zeros 22)) = .accepted (.setOptionRedChannel 0 (0x01 :: zeros 22)) := by decide

/-- R147: `FRM 0E 01 00×20` under V1. -/
theorem test_decode_setOptionGreenChannel :
    decodeInput .accept (some .v1) 0 (.frame ([0x0E, 0x01] ++ zeros 20)) = .accepted (.setOptionGreenChannel 0 (0x01 :: zeros 20)) := by decide

/-- R148: `FRM 0F 01 00×22` under V2. -/
theorem test_decode_setOptionBlueChannel :
    decodeInput .accept (some .v2) 0 (.frame ([0x0F, 0x01] ++ zeros 22)) = .accepted (.setOptionBlueChannel 0 (0x01 :: zeros 22)) := by decide

/-- R149: `FRM 10 01 00×20` under V1. -/
theorem test_decode_setOptionCycleSpeed :
    decodeInput .accept (some .v1) 0 (.frame ([0x10, 0x01] ++ zeros 20)) = .accepted (.setOptionCycleSpeed 0 (0x01 :: zeros 20)) := by decide

/-- R150: `FRM 11 01 00×22` under V2. -/
theorem test_decode_showIpAddr :
    decodeInput .accept (some .v2) 0 (.frame ([0x11, 0x01] ++ zeros 22)) = .accepted (.showIpAddr 0 (0x01 :: zeros 22)) := by decide

/-- R151: `FRM 12 01 00×20` under V1. -/
theorem test_decode_setOptionFade :
    decodeInput .accept (some .v1) 0 (.frame ([0x12, 0x01] ++ zeros 20)) = .accepted (.setOptionFade 0 (0x01 :: zeros 20)) := by decide

/-- R152: `FRM 13 01 00×22` under V2. -/
theorem test_decode_setOptionUseLdr :
    decodeInput .accept (some .v2) 0 (.frame ([0x13, 0x01] ++ zeros 22)) = .accepted (.setOptionUseLdr 0 (0x01 :: zeros 22)) := by decide

/-- R153: `FRM 14 01 00×20` under V1. -/
theorem test_decode_setOptionBlankMode :
    decodeInput .accept (some .v1) 0 (.frame ([0x14, 0x01] ++ zeros 20)) = .accepted (.setOptionBlankMode 0 (0x01 :: zeros 20)) := by decide

/-- R154: `FRM 15 01 00×22` under V2. -/
theorem test_decode_setOptionSlotsMode :
    decodeInput .accept (some .v2) 0 (.frame ([0x15, 0x01] ++ zeros 22)) = .accepted (.setOptionSlotsMode 0 (0x01 :: zeros 22)) := by decide

/-- R155: `FRM 16 01 00×22` under V2. -/
theorem test_decode_setOptionPirTimeout :
    decodeInput .accept (some .v2) 0 (.frame ([0x16, 0x01] ++ zeros 22)) = .accepted (.setOptionPirTimeout 0 (0x01 :: zeros 22)) := by decide

/-- R156: `FRM 16 01 00×20` under V1. -/
theorem test_decode_setOptionMinDimV1 :
    decodeInput .accept (some .v1) 0 (.frame ([0x16, 0x01] ++ zeros 20)) = .accepted (.setOptionMinDimV1 0 (0x01 :: zeros 20)) := by decide

/-- R157: `FRM 17 01 00×20` under V1. -/
theorem test_decode_showValue :
    decodeInput .accept (some .v1) 0 (.frame ([0x17, 0x01] ++ zeros 20)) = .accepted (.showValue 0 (0x01 :: zeros 20)) := by decide

/-- R158: `FRM 18 01 00×22` under V2. -/
theorem test_decode_showValueFormat :
    decodeInput .accept (some .v2) 0 (.frame ([0x18, 0x01] ++ zeros 22)) = .accepted (.showValueFormat 0 (0x01 :: zeros 22)) := by decide

/-- R159: `FRM 19 01 00×22` under V2. -/
theorem test_decode_setOptionMinDimV2 :
    decodeInput .accept (some .v2) 0 (.frame ([0x19, 0x01] ++ zeros 22)) = .accepted (.setOptionMinDimV2 0 (0x01 :: zeros 22)) := by decide

/-! ### Decoding refuses, by name -/

/-- D13 to D16: codes above 0x19 are unknown, those with bits [7:5] zero too. -/
theorem test_decode_unknown :
    ∀ code ∈ ([0x1A, 0x1F, 0x20, 0xFF] : Bytes),
      decodeFrame .accept (code :: zeros 23) .v2 = .rejected (.unknownCommand code) := by decide

/-- D19 to D21: code 0x19 follows the policy under V1 only. -/
theorem test_decode_0x19 :
    decodeFrame .accept (0x19 :: zeros 21) .v1 = .accepted (.setOptionMinDimV2, zeros 21) ∧
    decodeFrame .reject (0x19 :: zeros 21) .v1 = .rejected (.unknownCommand 0x19) ∧
    decodeFrame .reject (0x19 :: zeros 23) .v2 = .accepted (.setOptionMinDimV2, zeros 23) := by decide

/-- D3, D5, D7, D8 under V1: the length comes first. -/
theorem test_decode_length_v1 :
    decodeFrame .accept [] .v1 = .rejected (.frameLengthMismatch 22 0) ∧
    decodeFrame .accept (0x01 :: zeros 20) .v1 = .rejected (.frameLengthMismatch 22 21) ∧
    decodeFrame .accept (0x00 :: zeros 22) .v1 = .rejected (.frameLengthMismatch 22 23) ∧
    decodeFrame .accept (0x02 :: zeros 23) .v1 = .rejected (.frameLengthMismatch 22 24) := by decide

/-- D9 to D11 and D17 under V2: the length wins over an unknown code. -/
theorem test_decode_length_v2 :
    decodeFrame .accept (0x02 :: zeros 21) .v2 = .rejected (.frameLengthMismatch 24 22) ∧
    decodeFrame .accept (0x02 :: zeros 22) .v2 = .rejected (.frameLengthMismatch 24 23) ∧
    decodeFrame .accept (0x02 :: zeros 24) .v2 = .rejected (.frameLengthMismatch 24 25) ∧
    decodeFrame .accept (0xFF :: zeros 22) .v2 = .rejected (.frameLengthMismatch 24 23) := by decide

/-- D1, D2, D18: with no version every frame is NoSession with its length. -/
theorem test_decode_noSession :
    decodeFor .accept none (0x01 :: zeros 23) = .rejected (.noSession 24) ∧
    decodeFor .accept none [] = .rejected (.noSession 0) ∧
    decodeFor .accept none [0xFF] = .rejected (.noSession 1) := by decide

/-- D23: the payload is bytes 1 to 21, unchanged and in order. -/
theorem test_decode_payload :
    decodeFrame .accept [0x0C, 1, 2, 3, 4, 5, 6, 7, 8, 9, 10, 11, 12, 13, 14, 15, 16, 17, 18, 19, 20, 21] .v1 =
      .accepted (.setOptionBacklightMode,
        [1, 2, 3, 4, 5, 6, 7, 8, 9, 10, 11, 12, 13, 14, 15, 16, 17, 18, 19, 20, 21]) := by decide

/-- W5: other negotiation bytes are refused. -/
theorem test_negotiate_others :
    ∀ pn ∈ ([0, 22, 24, 53, 55, 61, 63, 105, 255] : Bytes),
      negotiateVersion pn = .rejected (.unsupportedProtocol pn) := by decide

/-- A table word: the byte of a NEG_INPUT row and the code of a CMD_FRAME row (log entry 8). -/
theorem test_tableWord :
    decodeTableWord 8 0x36 = some (.negotiateV1 0) ∧
    decodeTableWord 8 0x02 = some (.setOption1224 0 (zeros 23)) ∧
    decodeTableWord 8 0x1A = none := by decide

/-! ### One step for each instruction: the frame of its example is taken, and the command waits (R117) -/

/-- N1. -/
theorem test_step_negotiateV1 :
    nextIs (step (receiving none (.negotiate 0x36)))
      (endsWith (some .v1) (.okNegotiated .v1) [.negotiated 0 .v1, .status 0 (.okNegotiated .v1)]) = true := by decide

/-- N12: renegotiation replaces the version. -/
theorem test_step_negotiateV2 :
    nextIs (step (receiving (some .v1) (.negotiate 0x3E)))
      (endsWith (some .v2) (.okNegotiated .v2) [.negotiated 0 .v2, .status 0 (.okNegotiated .v2)]) = true := by decide

/-- R133. -/
theorem test_step_timeUpdate :
    nextIs (step (receiving (some .v2) (.frame ([0x00, 0x01] ++ zeros 22))))
      (waitsWith .timeUpdate (0x01 :: zeros 22)) = true := by decide

/-- R134. -/
theorem test_step_getOptions :
    nextIs (step (receiving (some .v2) (.frame ([0x01] ++ zeros 23))))
      (waitsWith .getOptions (zeros 23)) = true := by decide

/-- R135. -/
theorem test_step_setOption1224 :
    nextIs (step (receiving (some .v1) (.frame ([0x02, 0x01] ++ zeros 20))))
      (waitsWith .setOption1224 (0x01 :: zeros 20)) = true := by decide

/-- R136. -/
theorem test_step_setOptionBlankLead :
    nextIs (step (receiving (some .v2) (.frame ([0x03, 0x01] ++ zeros 22))))
      (waitsWith .setOptionBlankLead (0x01 :: zeros 22)) = true := by decide

/-- R137. -/
theorem test_step_setOptionScrollback :
    nextIs (step (receiving (some .v1) (.frame ([0x04, 0x01] ++ zeros 20))))
      (waitsWith .setOptionScrollback (0x01 :: zeros 20)) = true := by decide

/-- R138. -/
theorem test_step_setOptionSuppressAcp :
    nextIs (step (receiving (some .v2) (.frame ([0x05, 0x01] ++ zeros 22))))
      (waitsWith .setOptionSuppressAcp (0x01 :: zeros 22)) = true := by decide

/-- R139. -/
theorem test_step_setOptionDateFormat :
    nextIs (step (receiving (some .v1) (.frame ([0x06, 0x01] ++ zeros 20))))
      (waitsWith .setOptionDateFormat (0x01 :: zeros 20)) = true := by decide

/-- R140. -/
theorem test_step_setOptionDayBlanking :
    nextIs (step (receiving (some .v2) (.frame ([0x07, 0x01] ++ zeros 22))))
      (waitsWith .setOptionDayBlanking (0x01 :: zeros 22)) = true := by decide

/-- R141. -/
theorem test_step_setOptionBlankStart :
    nextIs (step (receiving (some .v1) (.frame ([0x08, 0x01] ++ zeros 20))))
      (waitsWith .setOptionBlankStart (0x01 :: zeros 20)) = true := by decide

/-- R142. -/
theorem test_step_setOptionBlankEnd :
    nextIs (step (receiving (some .v2) (.frame ([0x09, 0x01] ++ zeros 22))))
      (waitsWith .setOptionBlankEnd (0x01 :: zeros 22)) = true := by decide

/-- R143. -/
theorem test_step_setOptionFadeSteps :
    nextIs (step (receiving (some .v1) (.frame ([0x0A, 0x01] ++ zeros 20))))
      (waitsWith .setOptionFadeSteps (0x01 :: zeros 20)) = true := by decide

/-- R144. -/
theorem test_step_setOptionScrollSteps :
    nextIs (step (receiving (some .v2) (.frame ([0x0B, 0x01] ++ zeros 22))))
      (waitsWith .setOptionScrollSteps (0x01 :: zeros 22)) = true := by decide

/-- R145. -/
theorem test_step_setOptionBacklightMode :
    nextIs (step (receiving (some .v1) (.frame ([0x0C, 0x01] ++ zeros 20))))
      (waitsWith .setOptionBacklightMode (0x01 :: zeros 20)) = true := by decide

/-- R146. -/
theorem test_step_setOptionRedChannel :
    nextIs (step (receiving (some .v2) (.frame ([0x0D, 0x01] ++ zeros 22))))
      (waitsWith .setOptionRedChannel (0x01 :: zeros 22)) = true := by decide

/-- R147. -/
theorem test_step_setOptionGreenChannel :
    nextIs (step (receiving (some .v1) (.frame ([0x0E, 0x01] ++ zeros 20))))
      (waitsWith .setOptionGreenChannel (0x01 :: zeros 20)) = true := by decide

/-- R148. -/
theorem test_step_setOptionBlueChannel :
    nextIs (step (receiving (some .v2) (.frame ([0x0F, 0x01] ++ zeros 22))))
      (waitsWith .setOptionBlueChannel (0x01 :: zeros 22)) = true := by decide

/-- R149. -/
theorem test_step_setOptionCycleSpeed :
    nextIs (step (receiving (some .v1) (.frame ([0x10, 0x01] ++ zeros 20))))
      (waitsWith .setOptionCycleSpeed (0x01 :: zeros 20)) = true := by decide

/-- R150. -/
theorem test_step_showIpAddr :
    nextIs (step (receiving (some .v2) (.frame ([0x11, 0x01] ++ zeros 22))))
      (waitsWith .showIpAddr (0x01 :: zeros 22)) = true := by decide

/-- R151. -/
theorem test_step_setOptionFade :
    nextIs (step (receiving (some .v1) (.frame ([0x12, 0x01] ++ zeros 20))))
      (waitsWith .setOptionFade (0x01 :: zeros 20)) = true := by decide

/-- R152. -/
theorem test_step_setOptionUseLdr :
    nextIs (step (receiving (some .v2) (.frame ([0x13, 0x01] ++ zeros 22))))
      (waitsWith .setOptionUseLdr (0x01 :: zeros 22)) = true := by decide

/-- R153. -/
theorem test_step_setOptionBlankMode :
    nextIs (step (receiving (some .v1) (.frame ([0x14, 0x01] ++ zeros 20))))
      (waitsWith .setOptionBlankMode (0x01 :: zeros 20)) = true := by decide

/-- R154. -/
theorem test_step_setOptionSlotsMode :
    nextIs (step (receiving (some .v2) (.frame ([0x15, 0x01] ++ zeros 22))))
      (waitsWith .setOptionSlotsMode (0x01 :: zeros 22)) = true := by decide

/-- R155. -/
theorem test_step_setOptionPirTimeout :
    nextIs (step (receiving (some .v2) (.frame ([0x16, 0x01] ++ zeros 22))))
      (waitsWith .setOptionPirTimeout (0x01 :: zeros 22)) = true := by decide

/-- R156. -/
theorem test_step_setOptionMinDimV1 :
    nextIs (step (receiving (some .v1) (.frame ([0x16, 0x01] ++ zeros 20))))
      (waitsWith .setOptionMinDimV1 (0x01 :: zeros 20)) = true := by decide

/-- R157. -/
theorem test_step_showValue :
    nextIs (step (receiving (some .v1) (.frame ([0x17, 0x01] ++ zeros 20))))
      (waitsWith .showValue (0x01 :: zeros 20)) = true := by decide

/-- R158. -/
theorem test_step_showValueFormat :
    nextIs (step (receiving (some .v2) (.frame ([0x18, 0x01] ++ zeros 22))))
      (waitsWith .showValueFormat (0x01 :: zeros 22)) = true := by decide

/-- R159. -/
theorem test_step_setOptionMinDimV2 :
    nextIs (step (receiving (some .v2) (.frame ([0x19, 0x01] ++ zeros 22))))
      (waitsWith .setOptionMinDimV2 (0x01 :: zeros 22)) = true := by decide

/-! ### Single steps of the vectors -/

/-- N14: a failed negotiation clears an active version. -/
theorem test_step_negotiation_fails :
    nextIs (step (receiving (some .v2) (.negotiate 0x40)))
      (endsWith none (.error (.unsupportedProtocol 0x40)) [.status 0 (.error (.unsupportedProtocol 0x40))]) = true := by
  decide

/-- W8: a frame of length 23 under V2. -/
theorem test_step_length :
    nextIs (step (receiving (some .v2) (.frame ([0x12, 0x01] ++ zeros 21))))
      (endsWith (some .v2) (.error (.frameLengthMismatch 24 23)) [.status 0 (.error (.frameLengthMismatch 24 23))]) =
        true := by decide

/-- D27: an error clears the reply of the command before. -/
theorem test_step_clears_reply :
    nextIs (step (block .accept none [.bus 0]
        [{ idle (some .v2) [.frame (0x02 :: zeros 22)] with reply := some (0x01 :: zeros 23) }]))
      (endsWith (some .v2) (.error (.frameLengthMismatch 24 23)) [.status 0 (.error (.frameLengthMismatch 24 23))]) =
        true := by decide

/-- N16: a busy session holds its input and its version. -/
theorem test_step_busy :
    nextIs (step (block .accept (some 0) [.bus 0]
        [{ busy .v1 .inApply .setOptionFade (zeros 21) with inputs := [.negotiate 0x3E] }]))
      (fun t => t.sessions == [{ busy .v1 .inApply .setOptionFade (zeros 21) with inputs := [.negotiate 0x3E] }]) =
        true := by decide

/-- R-3: the apply request carries the tag, not the code. -/
theorem test_step_grant_write :
    nextIs (step (block .accept none [.grant 0] [busy .v1 .waitGrant .setOptionMinDimV1 (0x05 :: zeros 20)]))
      (fun t => t.events == [.applyIssued 0 .setOptionMinDimV1 (0x05 :: zeros 20)] && t.serOwner == some 0 &&
        t.sessions == [busy .v1 .inApply .setOptionMinDimV1 (0x05 :: zeros 20)]) = true := by decide

/-- R-2: the payload of GET_OPTIONS reaches no port. -/
theorem test_step_grant_read :
    nextIs (step (block .accept none [.grant 0] [busy .v2 .waitGrant .getOptions (List.replicate 23 0x55)]))
      (fun t => t.events == [.snapshotIssued 0] && t.serOwner == some 0 &&
        t.sessions == [busy .v2 .inSnapshot .getOptions (List.replicate 23 0x55)]) = true := by decide

/-- S2: while session 0 is in its apply, session 1 waits. -/
theorem test_step_grant_not_enabled :
    nextIs (step (block .accept (some 0) [.grant 1]
        [busy .v1 .inApply .timeUpdate (zeros 21), busy .v2 .waitGrant .getOptions (zeros 23)]))
      (fun t => t == block .accept (some 0) []
        [busy .v1 .inApply .timeUpdate (zeros 21), busy .v2 .waitGrant .getOptions (zeros 23)]) = true := by decide

/-- R-8. -/
theorem test_step_apply_ok :
    nextIs (step (block .accept (some 0) [.applyAck 0 .ok] [busy .v2 .inApply .setOptionFade (zeros 23)]))
      (endsWith (some .v2) (.okApplied .setOptionFade)
        [.applyReturned 0 .ok, .status 0 (.okApplied .setOptionFade)]) = true := by decide

/-- R-9: an error of the collaborator is reported with the tag, and the version stays. -/
theorem test_step_apply_err :
    nextIs (step (block .accept (some 0) [.applyAck 0 (.err ⟨1⟩)] [busy .v2 .inApply .setOptionFade (zeros 23)]))
      (endsWith (some .v2) (.error (.applyError .setOptionFade ⟨1⟩))
        [.applyReturned 0 (.err ⟨1⟩), .status 0 (.error (.applyError .setOptionFade ⟨1⟩))]) = true := by decide

/-- R-10 and R-11: an answer with no request, and the wrong kind of answer. -/
theorem test_step_answer_lost :
    nextIs (step (block .accept none [.applyAck 0 .ok] [idle (some .v2) []]))
      (fun t => t == block .accept none [] [idle (some .v2) []]) = true ∧
    nextIs (step (block .accept (some 0) [.snapshotAck 0 [0xAA]] [busy .v2 .inApply .setOptionFade (zeros 23)]))
      (fun t => t == block .accept (some 0) [] [busy .v2 .inApply .setOptionFade (zeros 23)]) = true := by decide

/-- W7: the reply is `01`, the snapshot, and padding to 24 bytes. -/
theorem test_step_snapshot :
    nextIs (step (block .accept (some 0) [.snapshotAck 0 [0x0C, 0x01]] [busy .v2 .inSnapshot .getOptions (zeros 23)]))
      (fun t => t.events == [.snapshotReturned 0 [0x0C, 0x01], .reply 0 ([0x01, 0x0C, 0x01] ++ zeros 21),
          .status 0 .okReply] &&
        t.sessions == [{ idle (some .v2) [] with
          status := some .okReply, reply := some ([0x01, 0x0C, 0x01] ++ zeros 21) }]) = true := by decide

/-- E14: a snapshot of 24 bytes does not fit under V2. -/
theorem test_step_snapshot_too_large :
    nextIs (step (block .accept (some 0) [.snapshotAck 0 (zeros 24)] [busy .v2 .inSnapshot .getOptions (zeros 23)]))
      (endsWith (some .v2) (.error (.payloadTooLarge 25 24))
        [.snapshotReturned 0 (zeros 24), .status 0 (.error (.payloadTooLarge 25 24))]) = true := by decide

/-- E4, E5, E12: the boundary of the reply under V1, and another padding byte. -/
theorem test_encodeReply :
    encodeReply 0x00 (List.replicate 21 0xAA) .v1 = .accepted (0x01 :: List.replicate 21 0xAA) ∧
    encodeReply 0x00 (List.replicate 22 0xAA) .v1 = .rejected (.payloadTooLarge 23 22) ∧
    encodeReply 0xFF [0xAA] .v1 = .accepted ([0x01, 0xAA] ++ List.replicate 20 0xFF) := by decide

/-- Z2: a reset during a write. -/
theorem test_step_reset :
    nextIs (step (block .accept (some 0) [.reset] [busy .v2 .inApply .setOptionRedChannel (zeros 23)]))
      (fun t => t.sessions == [Session.cleared []] && t.serOwner == none && t.events == [.resetTaken]) = true := by
  decide

/-- S3: a decode error is reported while the other session holds the serializer. -/
theorem test_step_error_beside_owner :
    nextIs (step (block .accept (some 0) [.bus 1]
        [busy .v1 .inApply .timeUpdate (zeros 21), idle (some .v2) [.frame (0x01 :: zeros 9)]]))
      (fun t => t.events == [.status 1 (.error (.frameLengthMismatch 24 10))] && t.serOwner == some 0 &&
        t.session? 0 == some (busy .v1 .inApply .timeUpdate (zeros 21))) = true := by decide

/-- The placed instruction is the one the next step runs: a negotiation, and a command (log entry 8). -/
theorem test_withFetchWord :
    nextIs (step (State.reset.withFetchWord 8 0x36)) (endsWith (some .v1) (.okNegotiated .v1)
      [.negotiated 0 .v1, .status 0 (.okNegotiated .v1)]) = true ∧
    nextIs (step (State.reset.withFetchWord 8 0x19)) (waitsWith .setOptionMinDimV2 (zeros 23)) = true := by decide

/-! ### Witnesses: the hypotheses of each statement are met -/

/-- The block most witnesses use: one session of V2, idle, with nothing at its port. -/
def idle2 : State := block .accept none [] [idle (some .v2) []]

/-- One session with a write at the collaborator, as a run leaves it: the request is in the log. -/
def applying (turns : List Turn) : State :=
  { block .accept (some 0) turns [busy .v2 .inApply .setOptionFade (zeros 23)] with
    events := [.applyIssued 0 .setOptionFade (zeros 23)] }

/-- One session with a snapshot requested. -/
def snapping (turns : List Turn) : State :=
  { block .accept (some 0) turns [busy .v2 .inSnapshot .getOptions (zeros 23)] with events := [.snapshotIssued 0] }

/-- The bytes on both sides of each protocol number. -/
theorem witness_ProtocolNumbersAreExact :
    ∀ pn ∈ ([53, 55, 61, 63] : Bytes), pn ≠ 54 ∧ pn ≠ 62 := by decide

theorem witness_CodesResolveAsTheMapLists :
    ((0x19 : Byte) = 0x19 → Policy.accept = .accept) ∧ ((0x18 : Byte) = 0x19 → Policy.reject = .accept) := by decide

/-- The differing code, and the codes beside it. -/
theorem witness_OnlyCode0x16ResolvesByVersion :
    resolve .accept 0x16 .v1 = some .setOptionMinDimV1 ∧ resolve .accept 0x16 .v2 = some .setOptionPirTimeout ∧
    resolve .reject 0x15 .v1 = some .setOptionSlotsMode ∧ resolve .reject 0x15 .v2 = some .setOptionSlotsMode ∧
    resolve .reject 0x17 .v1 = some .showValue ∧ resolve .reject 0x17 .v2 = some .showValue := by decide

theorem witness_DecodeOfEncodeIsTheInstruction :
    (Instr.negotiateV1 3).wellFormed .reject .v2 = true ∧
    (Instr.setOptionMinDimV1 0 (zeros 21)).wellFormed .reject .v1 = true ∧
    (Instr.setOptionPirTimeout 0 (zeros 23)).wellFormed .reject .v2 = true ∧
    (Instr.setOptionMinDimV2 0 (zeros 21)).wellFormed .accept .v1 = true := by decide

/-- With a version, and with none. -/
theorem witness_EncodeOfDecodeIsTheInput :
    decodeInput .accept (some .v1) 2 (.frame (0x16 :: zeros 21)) = .accepted (.setOptionMinDimV1 2 (zeros 21)) ∧
    decodeInput .accept none 0 (.negotiate 0x3E) = .accepted (.negotiateV2 0) := by decide

theorem witness_PayloadIsExtractedUnchanged :
    decodeFrame .reject ([0x00, 0xFF] ++ zeros 20) .v1 = .accepted (.timeUpdate, 0xFF :: zeros 20) ∧
    decodeFrame .reject (0x19 :: zeros 23) .v2 = .accepted (.setOptionMinDimV2, zeros 23) := by decide

/-- Both outcomes, under each version (W1, W2). -/
theorem witness_RightLengthNeverMismatches :
    ((0x02 : Byte) :: zeros 21).length = frameSize .v1 ∧ ((0x80 : Byte) :: zeros 23).length = frameSize .v2 := by
  decide

/-- The shortest and the longest snapshot that fits. -/
theorem witness_ReplyRoundTrip :
    (zeros 0).length ≤ frameSize .v1 - 1 ∧ (zeros 21).length ≤ frameSize .v1 - 1 ∧
    (zeros 23).length ≤ frameSize .v2 - 1 := by decide

theorem witness_RaiseAndCompleteEndAnOperation :
    (applying []).session? 0 = some (busy .v2 .inApply .setOptionFade (zeros 23)) ∧
    ∀ pn : Byte, Err.noSession 0 ≠ .unsupportedProtocol pn :=
  ⟨by decide, fun pn h => by cases h⟩

/-- An idle session, and a busy one. -/
theorem witness_NegotiationFollowsItsRule :
    idle2.session? 0 = some (idle (some .v2) []) ∧ (idle (some .v2) []).phase = .idle ∧
    (applying []).session? 0 = some (busy .v2 .inApply .setOptionFade (zeros 23)) ∧
    (busy .v2 .inApply .setOptionFade (zeros 23)).phase ≠ .idle := by decide

/-- An idle session with a version and one with none, and a busy one. -/
theorem witness_FrameFollowsTheReceiveRule :
    idle2.session? 0 = some (idle (some .v2) []) ∧ (idle (some .v2) []).phase = .idle ∧
    State.reset.session? 0 = some (idle none []) ∧ (idle none []).phase = .idle ∧
    (snapping []).session? 0 = some (busy .v2 .inSnapshot .getOptions (zeros 23)) ∧
    (busy .v2 .inSnapshot .getOptions (zeros 23)).phase ≠ .idle := by decide

theorem witness_FrameWithoutVersionIsDropped :
    State.reset.Inv ∧ State.reset.session? 0 = some (idle none []) ∧ (idle none []).phase = .idle ∧ (idle none []).ver = none ∧
    ([0xFF] : Bytes).length = ([0x01] : Bytes).length := by decide

/-- A code above 0x19 under each version, and 0x19 under V1 with REJECT. -/
theorem witness_UnknownCodeRaisesUnknownCommand :
    idle2.session? 0 = some (idle (some .v2) []) ∧ (idle (some .v2) []).Awaits .v2 (zeros 23) ∧
    (0x19 : Byte) < 0x1A ∧ (0x19 : Byte) < 0xFF ∧
    (block .reject none [] [idle (some .v1) []]).session? 0 = some (idle (some .v1) []) ∧
    (idle (some .v1) []).Awaits .v1 (zeros 21) ∧
    (block .reject none [] [idle (some .v1) []]).cfg.policy = .reject := by decide

/-- V1 with either policy, and V2. -/
theorem witness_Code0x19FollowsThePolicy :
    (block .reject none [] [idle (some .v1) []]).session? 0 = some (idle (some .v1) []) ∧
    (block .accept none [] [idle (some .v1) []]).session? 0 = some (idle (some .v1) []) ∧
    (idle (some .v1) []).Awaits .v1 (zeros 21) ∧
    (block .reject none [] [idle (some .v2) []]).session? 0 = some (idle (some .v2) []) ∧
    (idle (some .v2) []).Awaits .v2 (zeros 23) := by decide

/-- Each of the three errors of a frame. -/
theorem witness_DroppedFrameLeavesNoTrace :
    State.reset.Inv ∧ State.reset.session? 0 = some (idle none []) ∧ (idle none []).phase = .idle ∧
    decodeFor State.reset.cfg.policy (idle none []).ver [0x01] = .rejected (.noSession 1) ∧
    idle2.Inv ∧ idle2.session? 0 = some (idle (some .v2) []) ∧
    decodeFor idle2.cfg.policy (idle (some .v2) []).ver [0x01] = .rejected (.frameLengthMismatch 24 1) ∧
    decodeFor idle2.cfg.policy (idle (some .v2) []).ver (0x1A :: zeros 23) = .rejected (.unknownCommand 0x1A) := by
  refine ⟨?_, ?_, ?_, ?_, ?_, ?_, ?_, ?_⟩ <;> decide

theorem witness_FailedNegotiationEndsTheSession :
    idle2.session? 0 = some (idle (some .v2) []) ∧ (idle (some .v2) []).phase = .idle ∧
    (0x40 : Byte) ≠ 54 ∧ (0x40 : Byte) ≠ 62 := by decide

theorem witness_RenegotiationReplacesTheVersion :
    idle2.Inv ∧ idle2.session? 0 = some (idle (some .v2) []) ∧ (idle (some .v2) []).phase = .idle := by decide

theorem witness_NegotiationsComplete :
    State.reset.session? 0 = some (idle none []) ∧ (idle none []).phase = .idle := by decide

/-- A session of V1 and one of V2, each awaiting a payload of its length: what the statements on accepted commands
assume. -/
theorem witness_TimeAndShowCommandsAreAccepted :
    idle2.session? 0 = some (idle (some .v2) []) ∧ (idle (some .v2) []).Awaits .v2 (zeros 23) ∧
    (block .reject none [] [idle (some .v1) []]).session? 0 = some (idle (some .v1) []) ∧
    (idle (some .v1) []).Awaits .v1 (zeros 21) := by decide

theorem witness_GetOptionsIsAccepted :
    idle2.session? 0 = some (idle (some .v2) []) ∧ (idle (some .v2) []).Awaits .v2 (zeros 23) := by decide

theorem witness_FormatAndBlankingOptionsAreAccepted :
    idle2.session? 0 = some (idle (some .v2) []) ∧ (idle (some .v2) []).Awaits .v2 (zeros 23) := by decide

theorem witness_StepAndColourOptionsAreAccepted :
    idle2.session? 0 = some (idle (some .v2) []) ∧ (idle (some .v2) []).Awaits .v2 (zeros 23) := by decide

theorem witness_FadeAndModeOptionsAreAccepted :
    idle2.session? 0 = some (idle (some .v2) []) ∧ (idle (some .v2) []).Awaits .v2 (zeros 23) := by decide

/-- V2 for two of the commands, V1 for two of them (with ACCEPT for the code 0x19). -/
theorem witness_VersionBoundOptionsAreAccepted :
    idle2.session? 0 = some (idle (some .v2) []) ∧ (idle (some .v2) []).Awaits .v2 (zeros 23) ∧
    (block .accept none [] [idle (some .v1) []]).session? 0 = some (idle (some .v1) []) ∧
    (idle (some .v1) []).Awaits .v1 (zeros 21) ∧
    (block .accept none [] [idle (some .v1) []]).cfg.policy = .accept := by decide

theorem witness_CommandOfTheOtherVersionIsItsFrame :
    idle2.session? 0 = some (idle (some .v2) []) ∧ (idle (some .v2) []).Awaits .v2 (zeros 23) ∧
    (block .reject none [] [idle (some .v1) []]).session? 0 = some (idle (some .v1) []) ∧
    (idle (some .v1) []).Awaits .v1 (zeros 21) ∧
    (block .reject none [] [idle (some .v1) []]).cfg.policy = .reject := by decide

/-- No version; and a payload one byte short and one byte long. -/
theorem witness_CommandTrapsWithoutVersionOrLength :
    (Instr.showValue 0 (zeros 22)).command = some (.showValue, zeros 22) ∧
    State.reset.session? (Instr.showValue 0 (zeros 22)).session = some (idle none []) ∧
    (idle none []).phase = .idle ∧ (idle none []).ver = none ∧
    idle2.session? (Instr.showValue 0 (zeros 22)).session = some (idle (some .v2) []) ∧
    (idle (some .v2) []).ver = some .v2 ∧ (zeros 22).length ≠ frameSize .v2 - 1 ∧
    (zeros 24).length ≠ frameSize .v2 - 1 := by decide

theorem witness_ExecHoldsAtABusySession :
    (applying []).session? (Instr.negotiateV1 0).session = some (busy .v2 .inApply .setOptionFade (zeros 23)) ∧
    (busy .v2 .inApply .setOptionFade (zeros 23)).phase ≠ .idle := by decide

/-- The first number that names no session. -/
theorem witness_ExecFaultsAtNoSession : idle2.nSessions ≤ (Instr.negotiateV1 1).session := by decide

/-- A negotiation, an accepted command, a rejected one, and one that is held. -/
theorem witness_FrameOfEveryInstruction :
    (∃ t, exec (.negotiateV1 0) idle2 = .next t) ∧ (∃ t, exec (.timeUpdate 0 (zeros 23)) idle2 = .next t) ∧
    (∃ t, exec (.timeUpdate 0 []) idle2 = .next t) ∧ (∃ t, exec (.timeUpdate 0 []) (applying []) = .next t) :=
  ⟨⟨_, rfl⟩, ⟨_, rfl⟩, ⟨_, rfl⟩, ⟨_, rfl⟩⟩

theorem witness_StepRunsTheDecodedInstruction :
    (receiving (some .v2) (.frame (0x12 :: zeros 23))).turns = [.bus 0] ∧
    (receiving (some .v2) (.frame (0x12 :: zeros 23))).session? 0 =
      some (idle (some .v2) [.frame (0x12 :: zeros 23)]) ∧
    (idle (some .v2) [.frame (0x12 :: zeros 23)]).phase = .idle ∧
    decodeInput .accept (some .v2) 0 (.frame (0x12 :: zeros 23)) = .accepted (.setOptionFade 0 (zeros 23)) := by decide

/-- Each turn, and the bus side's with each kind of input. -/
theorem witness_StepIsTheStepOfTheNextTurn :
    idle2.turns = [] ∧ (applying [.grant 0]).turns = [.grant 0] ∧
    (applying [.applyAck 0 .ok]).turns = [.applyAck 0 .ok] ∧
    (applying [.snapshotAck 0 []]).turns = [.snapshotAck 0 []] ∧ (applying [.reset]).turns = [.reset] ∧
    (receiving none (.negotiate 0x40)).turns = [.bus 0] ∧
    (receiving none (.negotiate 0x40)).session? 0 = some (idle none [.negotiate 0x40]) ∧
    (receiving none (.frame [])).session? 0 = some (idle none [.frame []]) ∧
    (idle none [.negotiate 0x40]).phase = .idle ∧ (idle none [.frame []]).phase = .idle := by decide

theorem witness_BusySessionHoldsItsInputs :
    (applying [.bus 0]).turns = [.bus 0] ∧
    (applying [.bus 0]).session? 0 = some (busy .v2 .inApply .setOptionFade (zeros 23)) ∧
    (busy .v2 .inApply .setOptionFade (zeros 23)).phase ≠ .idle := by decide

/-- A step that takes the oldest of two inputs. -/
theorem witness_InputsAreTakenInOrder :
    ∃ t ss', step (block .accept none [.bus 0] [idle none [.negotiate 0x36, .frame []]]) = .next t ∧
      (block .accept none [.bus 0] [idle none [.negotiate 0x36, .frame []]]).session? 0 =
        some (idle none [.negotiate 0x36, .frame []]) ∧
      t.session? 0 = some ss' ∧ ss'.inputs = [.frame []] :=
  ⟨_, _, rfl, by decide, rfl, by decide⟩

/-- No turn, and a turn of the last session. -/
theorem witness_NoStepFaultsOrRefuses :
    State.reset.TurnsInRange ∧
    (block .accept none [.reset, .grant 1] [idle none [], idle none []]).TurnsInRange := by decide

/-- A run that has ended with a turn left, and a quiescent block with a reset still to come after its next turn. -/
theorem witness_EndedRunHasNoStep :
    (block .accept none [.grant 0] [idle (some .v2) []]).ended ∧
    (block .accept none [.grant 0] [idle (some .v2) []]).TurnsInRange ∧
    (block .accept none [.grant 0] [idle (some .v2) []]).turns = [.grant 0] ∧ Turn.grant 0 ≠ .reset ∧
    (block .accept none [.grant 0, .reset] [idle (some .v2) []]).TurnsInRange ∧
    (∀ ss ∈ (block .accept none [.grant 0, .reset] [idle (some .v2) []]).sessions, ss.inputs = []) ∧
    (block .accept none [.grant 0, .reset] [idle (some .v2) []]).quiescent := by decide

/-- R244: a `Reset()` of the script is an input: while it is to come, the run has not ended. -/
theorem test_reset_to_come_is_no_end :
    ¬ (block .accept none [.reset] [idle (some .v2) []]).ended ∧ State.reset.ended := by decide

/-- R9: a block of no session breaks the invariants. -/
theorem test_no_session_breaks_inv : ¬ (block .accept none [] []).Inv := by decide

/-- A read, and a write. -/
theorem witness_GrantIssuesTheRequest :
    (block .accept none [] [busy .v2 .waitGrant .getOptions (zeros 23)]).session? 0 =
      some (busy .v2 .waitGrant .getOptions (zeros 23)) ∧
    (block .accept none [] [busy .v2 .waitGrant .getOptions (zeros 23)]).serOwner = none ∧
    (busy .v2 .waitGrant .getOptions (zeros 23)).phase = .waitGrant ∧
    (busy .v2 .waitGrant .getOptions (zeros 23)).cmd = some .getOptions ∧
    (busy .v2 .waitGrant .getOptions (zeros 23)).payload = some (zeros 23) ∧
    (busy .v1 .waitGrant .showValue (zeros 21)).phase = .waitGrant ∧
    (busy .v1 .waitGrant .showValue (zeros 21)).cmd = some .showValue ∧ Tag.showValue ≠ .getOptions := by decide

/-- S6, and a session that does not wait. -/
theorem witness_GrantNeedsAFreeSerializer :
    (block .accept (some 0) [] [busy .v2 .inSnapshot .getOptions (zeros 23),
      busy .v1 .waitGrant .timeUpdate (zeros 21)]).session? 1 = some (busy .v1 .waitGrant .timeUpdate (zeros 21)) ∧
    (block .accept (some 0) [] [busy .v2 .inSnapshot .getOptions (zeros 23),
      busy .v1 .waitGrant .timeUpdate (zeros 21)]).serOwner ≠ none ∧
    idle2.session? 0 = some (idle (some .v2) []) ∧ (idle (some .v2) []).phase ≠ .waitGrant := by decide

theorem witness_ApplyAnswerCompletesTheWrite :
    (applying []).session? 0 = some (busy .v2 .inApply .setOptionFade (zeros 23)) ∧
    (busy .v2 .inApply .setOptionFade (zeros 23)).phase = .inApply ∧
    (busy .v2 .inApply .setOptionFade (zeros 23)).cmd = some .setOptionFade := by decide

/-- The longest snapshot that fits, and the shortest that does not. -/
theorem witness_SnapshotAnswerBecomesTheReply :
    (snapping []).session? 0 = some (busy .v2 .inSnapshot .getOptions (zeros 23)) ∧
    (busy .v2 .inSnapshot .getOptions (zeros 23)).phase = .inSnapshot ∧
    (busy .v2 .inSnapshot .getOptions (zeros 23)).ver = some .v2 ∧
    (zeros 23).length ≤ frameSize .v2 - 1 ∧ ¬ (zeros 24).length ≤ frameSize .v2 - 1 ∧
    (0x01 :: zeros 23 : Bytes) =
      [0x01] ++ zeros 23 ++ List.replicate (frameSize .v2 - 1 - (zeros 23).length) (snapping []).cfg.replyPad := by
  decide

/-- R-10 and R-11. -/
theorem witness_AnswersNobodyWaitsForAreLost :
    idle2.session? 0 = some (idle (some .v2) []) ∧ (idle (some .v2) []).phase ≠ .inApply ∧
    (applying []).session? 0 = some (busy .v2 .inApply .setOptionFade (zeros 23)) ∧
    (busy .v2 .inApply .setOptionFade (zeros 23)).phase ≠ .inSnapshot := by decide

/-- The bus side's turn while the write is outstanding. -/
theorem witness_UnansweredRequestHangs :
    (applying [.bus 0]).Inv ∧ (applying [.bus 0]).session? 0 = some (busy .v2 .inApply .setOptionFade (zeros 23)) ∧
    (busy .v2 .inApply .setOptionFade (zeros 23)).phase = .inApply ∧ (applying [.bus 0]).turns = [.bus 0] ∧
    Turn.bus 0 ≠ .reset ∧ (∀ r, Turn.bus 0 ≠ .applyAck 0 r) ∧ (∀ B, Turn.bus 0 ≠ .snapshotAck 0 B) ∧
    ∃ t, step (applying [.bus 0]) = .next t := by
  refine ⟨by decide, by decide, by decide, by decide, by decide, fun r h => ?_, fun B h => ?_, _, rfl⟩ <;> cases h

theorem witness_ResetClearsEveryRegister :
    (applying [.reset]).turns = [.reset] ∧
    (resetBlock (applying [])).session? 0 = some (Session.cleared []) := by decide

theorem witness_ResetKeepsInputsAndParameters :
    (receiving none (.frame [])).session? 0 = some (idle none [.frame []]) := by decide

theorem witness_ResetStateHoldsTheResetValues : State.reset.session? 0 = some (Session.cleared []) := by decide

/-- A step of each kind, from a state with the invariants. -/
theorem witness_StepKeepsTheInvariants :
    1 ≤ [([] : List BusInput)].length ∧
    (receiving (some .v2) (.frame (0x01 :: zeros 23))).Inv ∧
    (∃ t, step (receiving (some .v2) (.frame (0x01 :: zeros 23))) = .next t) ∧
    (block .accept none [.grant 0] [busy .v1 .waitGrant .timeUpdate (zeros 21)]).Inv ∧
    (∃ t, step (block .accept none [.grant 0] [busy .v1 .waitGrant .timeUpdate (zeros 21)]) = .next t) ∧
    (applying [.applyAck 0 .ok]).Inv ∧ (∃ t, step (applying [.applyAck 0 .ok]) = .next t) ∧
    (snapping [.snapshotAck 0 [0xAA]]).Inv ∧ (∃ t, step (snapping [.snapshotAck 0 [0xAA]]) = .next t) ∧
    (applying [.reset]).Inv ∧ ∃ t, step (applying [.reset]) = .next t :=
  ⟨by decide, by decide, ⟨_, rfl⟩, by decide, ⟨_, rfl⟩, by decide, ⟨_, rfl⟩, by decide, ⟨_, rfl⟩, by decide, _, rfl⟩

theorem witness_StatusRecordsStayLegal :
    (applying [.applyAck 0 .ok]).Inv ∧ (applying [.applyAck 0 .ok]).StatusLegal ∧
    ∃ t, step (applying [.applyAck 0 .ok]) = .next t :=
  ⟨by decide, by decide, _, rfl⟩

theorem witness_RequestsAreNeverInterleaved :
    (applying [.applyAck 0 .ok]).Inv ∧ (applying [.applyAck 0 .ok]).LogSerial ∧
    (∃ t, step (applying [.applyAck 0 .ok]) = .next t) ∧
    (block .accept none [.grant 0] [busy .v1 .waitGrant .timeUpdate (zeros 21)]).LogSerial :=
  ⟨by decide, by decide, ⟨_, rfl⟩, by decide⟩

theorem witness_AtMostOneRequestIsOutstanding :
    (applying []).Inv ∧ (applying []).session? 0 = some (busy .v2 .inApply .setOptionFade (zeros 23)) ∧
    (busy .v2 .inApply .setOptionFade (zeros 23)).phase = .inApply := by decide

theorem witness_RequestsComeOnlyFromGrants :
    ∃ t, step (block .accept none [.grant 0] [busy .v1 .waitGrant .timeUpdate (zeros 21)]) = .next t ∧
      Event.applyIssued 0 .timeUpdate (zeros 21) ∈ t.events.drop 0 :=
  ⟨_, rfl, by decide⟩

theorem witness_LogIsAppendOnly : ∃ t, step (applying [.applyAck 0 .ok]) = .next t ∧ t.events.length = 3 :=
  ⟨_, rfl, by decide⟩

theorem witness_OnlyTheListedPhaseTransitions :
    ∃ t ss', step (applying [.applyAck 0 .ok]) = .next t ∧
      (applying [.applyAck 0 .ok]).session? 0 = some (busy .v2 .inApply .setOptionFade (zeros 23)) ∧
      t.session? 0 = some ss' ∧ ss'.phase ≠ (busy .v2 .inApply .setOptionFade (zeros 23)).phase :=
  ⟨_, _, rfl, by decide, rfl, by decide⟩

/-- A negotiation that changes the version, and a reset that does. -/
theorem witness_OnlyNegotiationOrResetChangesTheVersion :
    (∃ t ss', step (receiving (some .v1) (.negotiate 0x3E)) = .next t ∧ t.session? 0 = some ss' ∧
      ss'.ver ≠ (idle (some .v1) [.negotiate 0x3E]).ver) ∧
    ∃ t ss', step (applying [.reset]) = .next t ∧ t.session? 0 = some ss' ∧
      ss'.ver ≠ (busy .v2 .inApply .setOptionFade (zeros 23)).ver :=
  ⟨⟨_, _, rfl, rfl, by decide⟩, _, _, rfl, rfl, by decide⟩

theorem witness_EmittedRepliesHaveTheFrameSize :
    ∃ t, step (snapping [.snapshotAck 0 [0xAA]]) = .next t ∧
      Event.reply 0 ([0x01, 0xAA] ++ zeros 22) ∈ t.events.drop (snapping [.snapshotAck 0 [0xAA]]).events.length :=
  ⟨_, rfl, by decide⟩

/-- Two sessions, of which the second has the turn. -/
theorem witness_SessionsAreKeptApart :
    (∃ t, step (block .accept (some 0) [.bus 1]
      [busy .v1 .inApply .timeUpdate (zeros 21), idle (some .v2) [.frame []]]) = .next t) ∧
    (Turn.bus 1).session? = some 1 ∧ (0 : Nat) ≠ 1 :=
  ⟨⟨_, rfl⟩, by decide, by decide⟩

/-- Two blocks that differ in the serializer's owner and in the other session. -/
theorem witness_BusStepSeesItsOwnSessionOnly :
    (block .accept (some 0) [.bus 1] [busy .v1 .inApply .timeUpdate (zeros 21), idle none [.negotiate 0x36]]).session? 1 =
      (block .accept none [.bus 1] [idle none [], idle none [.negotiate 0x36]]).session? 1 ∧
    (∃ t, step (block .accept (some 0) [.bus 1]
      [busy .v1 .inApply .timeUpdate (zeros 21), idle none [.negotiate 0x36]]) = .next t) ∧
    ∃ t, step (block .accept none [.bus 1] [idle none [], idle none [.negotiate 0x36]]) = .next t :=
  ⟨by decide, ⟨_, rfl⟩, _, rfl⟩

/-- The three turns of a write, from an idle session. -/
theorem witness_WriteCommandRunsToItsAnswer :
    (block .accept none [.bus 0, .grant 0, .applyAck 0 (.err ⟨0⟩)]
      [idle (some .v2) [.frame (0x12 :: zeros 23)]]).session? 0 = some (idle (some .v2) [.frame (0x12 :: zeros 23)]) ∧
    (idle (some .v2) [.frame (0x12 :: zeros 23)]).phase = .idle ∧
    (idle (some .v2) [.frame (0x12 :: zeros 23)]).ver = some .v2 ∧
    (idle (some .v2) [.frame (0x12 :: zeros 23)]).inputs = [encode (.setOptionFade 0 (zeros 23))] ∧
    (Instr.setOptionFade 0 (zeros 23)).command = some (.setOptionFade, zeros 23) ∧ Tag.setOptionFade ≠ .getOptions ∧
    (Instr.setOptionFade 0 (zeros 23)).wellFormed .accept .v2 = true := by decide

/-- The three turns of GET_OPTIONS, with a snapshot that fills the reply and one a byte longer. -/
theorem witness_GetOptionsRunsToItsReply :
    (block .accept none [.bus 0, .grant 0, .snapshotAck 0 (zeros 21)]
      [idle (some .v1) [.frame (0x01 :: zeros 21)]]).session? 0 = some (idle (some .v1) [.frame (0x01 :: zeros 21)]) ∧
    (idle (some .v1) [.frame (0x01 :: zeros 21)]).Awaits .v1 (zeros 21) ∧
    (zeros 21).length ≤ frameSize .v1 - 1 ∧ ¬ (zeros 22).length ≤ frameSize .v1 - 1 := by decide

end Sys2Proof.Tests
end

