-- ==== Sys2Proof/Proofs/Closing.lean ====
section
/-! PROOF. What `complete` and `raise` do to a session of the block (R12). -/

namespace Sys2Proof.Machine

/-- `complete` closes the operation with the session's registers as they stand (R12). -/
theorem complete_closed {s : State} {k : Nat} {ss : Session} (h : s.session? k = some ss) (st : StatusRec) :
    complete k st s = s.closed k ss [] st :=
  close_eq h id [] st

/-- `raise` closes the operation with the registers that the error's clean-up leaves (R12, R210). -/
theorem raise_closed {s : State} {k : Nat} {ss : Session} (h : s.session? k = some ss) (e : Err) :
    raise k e s = s.closed k (ss.cleanup e) [] (.error e) := by
  rw [raise_eq]
  exact close_eq h (Session.cleanup e) [] (.error e)

@[simp] theorem cleanup_unsupportedProtocol (pn : Byte) (ss : Session) :
    ss.cleanup (.unsupportedProtocol pn) = { ss with ver := none } := rfl

/-- No error but UnsupportedProtocol has a clean-up of its own (R207). -/
theorem cleanup_eq_self {e : Err} (he : ∀ pn, e ≠ .unsupportedProtocol pn) (ss : Session) : ss.cleanup e = ss := by
  cases e with
  | unsupportedProtocol pn => exact absurd rfl (he pn)
  | _ => rfl

/-- Settles O11: each operation is its closed state, and the error decides the clean-up. -/
theorem raiseAndCompleteEndAnOperation : Obligations.RaiseAndCompleteEndAnOperation := by
  intro s k ss h
  refine ⟨complete_closed h, fun pn => ?_, fun e he => ?_⟩
  · rw [raise_closed h, cleanup_unsupportedProtocol]
  · rw [raise_closed h, cleanup_eq_self he]

end Sys2Proof.Machine
end

