-- ==== Sys2Proof/Proofs/ExecFrame.lean ====
section
/-! PROOF. Everything `exec` can do, said once (`exec_change`), and from it the frame of every instruction. -/

namespace Sys2Proof.Machine

/-- The block has no session to run the instruction at (R20, log entry 10). -/
theorem exec_of_no_session {s : State} {i : Instr} (h : s.session? i.session = none) :
    exec i s = .fault .noSuchSession := by
  rcases Instr_cases i with ⟨k, v, rfl⟩ | ⟨k, c, rfl⟩
  · rw [session_ofVersion] at h
    simp [exec_ofVersion, receiveNegotiation, h]
  · rw [session_ofCommand] at h
    simp [exec_ofCommand, receiveFrame, h]

/-- A busy session holds the instruction's input (R105, R117). -/
theorem exec_of_busy {s : State} {i : Instr} {ss : Session} (h : s.session? i.session = some ss)
    (hb : ss.phase ≠ .idle) : exec i s = .next (holdInput i.session (encode i) s) := by
  rcases Instr_cases i with ⟨k, v, rfl⟩ | ⟨k, c, rfl⟩
  · simp only [session_ofVersion, encode_ofVersion, exec_ofVersion] at h ⊢
    exact receiveNegotiation_busy h hb
  · simp only [session_ofCommand, encode_ofCommand, exec_ofCommand] at h ⊢
    exact receiveFrame_busy h hb

/-- No frame is rejected with a negotiation's error (R117, R201). -/
theorem decodeFor_rejected_ne_unsupportedProtocol {policy : Policy} {ver : Option Version} {F : Bytes} {e : Err}
    (h : decodeFor policy ver F = .rejected e) (pn : Byte) : e ≠ .unsupportedProtocol pn := by
  rcases decodeFor_rejected h with ⟨_, rfl⟩ | ⟨_, _, _, rfl⟩ | ⟨_, _, _, _, rfl⟩ <;> nofun

/-- What an instruction that answers a next state does to its session, whose registers were `ss`, under the
serializer's owner: the session after, the owner after, and the events appended. -/
inductive ExecChange (cfg : Config) (owner : Option Nat) (i : Instr) (ss : Session) :
    Session → Option Nat → List Event → Prop where
  /-- a busy session holds the input (R105, R117, R236) -/
  | held (hb : ss.phase ≠ .idle) :
      ExecChange cfg owner i ss { ss with inputs := ss.inputs ++ [encode i] } owner []
  /-- a negotiation sets the version (R101) -/
  | negotiated {v : Version} (hi : ss.phase = .idle) (hc : i = .ofVersion i.session v) :
      ExecChange cfg owner i ss
        (({ ss with reply := none, ver := some v } : Session).finish (.okNegotiated v))
        (released i.session owner) [.negotiated i.session v, .status i.session (.okNegotiated v)]
  /-- a command is put in flight as what its frame decodes to (R117) -/
  | posted {c c' : Tag × Bytes} (hi : ss.phase = .idle) (hc : i.command = some c)
      (hd : decodeFor cfg.policy ss.ver (commandFrame c.1 c.2) = .accepted c') :
      ExecChange cfg owner i ss
        { ss with reply := none, cmd := some c'.1, payload := some c'.2, phase := .waitGrant } owner []
  /-- a command's frame is found wrong (R117) -/
  | rejected {c : Tag × Bytes} {e : Err} (hi : ss.phase = .idle) (hc : i.command = some c)
      (hd : decodeFor cfg.policy ss.ver (commandFrame c.1 c.2) = .rejected e) :
      ExecChange cfg owner i ss
        (({ ss with reply := none } : Session).finish (.error e))
        (released i.session owner) [.status i.session (.error e)]

/-- An operation that ends changes its session, the owner and the log, in the terms of `State.changed`. -/
theorem closed_eq_changed (s : State) (k : Nat) (ss : Session) (es : List Event) (st : StatusRec) :
    s.closed k ss es st =
      s.changed s.turns k (ss.finish st) (released k s.serOwner) (es ++ [.status k st]) := by
  simp [State.closed, State.changed, Session.finish, released]

/-- A change that appends no event and keeps the owner only writes its session. -/
theorem changed_nil (s : State) (k : Nat) (x : Session) :
    s.changed s.turns k x s.serOwner [] = { s with sessions := s.sessions.set k x } := by
  simp [State.changed]

/-- A negotiation at an idle session makes the change of R101. -/
theorem exec_ofVersion_change {s : State} {k : Nat} {ss : Session} (hs : s.session? k = some ss)
    (hi : ss.phase = .idle) (v : Version) :
    ∃ x o es, ExecChange s.cfg s.serOwner (.ofVersion k v) ss x o es ∧
      exec (.ofVersion k v) s = .next (s.changed s.turns k x o es) := by
  refine ⟨_, _, _, .negotiated hi (by rw [session_ofVersion]), ?_⟩
  have hn := (negotiateVersion_eq_accepted_iff (protocolNumber v) v).2 rfl
  rw [exec_ofVersion, receiveNegotiation_accepted hs hi hn, setVersion_closed hs, closed_eq_changed,
    session_ofVersion]
  rfl

/-- A command at an idle session makes the change its frame's decoding decides (R117). -/
theorem exec_ofCommand_change {s : State} {k : Nat} {ss : Session} (hs : s.session? k = some ss)
    (hi : ss.phase = .idle) (c : Tag × Bytes) :
    ∃ x o es, ExecChange s.cfg s.serOwner (.ofCommand k c) ss x o es ∧
      exec (.ofCommand k c) s = .next (s.changed s.turns k x o es) := by
  cases hd : decodeFor s.cfg.policy ss.ver (commandFrame c.1 c.2) with
  | accepted c' =>
    refine ⟨_, _, _, .posted hi (command_ofCommand k c) hd, ?_⟩
    rw [exec_ofCommand, receiveFrame_accepted hs hi hd, postCommand_inFlight hs, changed_nil]
    rfl
  | rejected e =>
    refine ⟨_, _, _, .rejected hi (command_ofCommand k c) hd, ?_⟩
    rw [exec_ofCommand, receiveFrame_rejected hs hi hd,
      rejectInput_closed hs (decodeFor_rejected_ne_unsupportedProtocol hd), closed_eq_changed, session_ofCommand]
    rfl

/-- Everything an instruction that answers a next state can do. -/
theorem exec_change {s t : State} {i : Instr} (h : exec i s = .next t) :
    ∃ ss x o es, s.session? i.session = some ss ∧ ExecChange s.cfg s.serOwner i ss x o es ∧
      t = s.changed s.turns i.session x o es := by
  cases hs : s.session? i.session with
  | none => rw [exec_of_no_session hs] at h; cases h
  | some ss =>
    have hchange : ∃ x o es, ExecChange s.cfg s.serOwner i ss x o es ∧
        exec i s = .next (s.changed s.turns i.session x o es) := by
      by_cases hi : ss.phase = .idle
      · rcases Instr_cases i with ⟨k, v, rfl⟩ | ⟨k, c, rfl⟩
        · rw [session_ofVersion] at hs ⊢
          exact exec_ofVersion_change hs hi v
        · rw [session_ofCommand] at hs ⊢
          exact exec_ofCommand_change hs hi c
      · refine ⟨_, _, _, .held hi, ?_⟩
        rw [exec_of_busy hs hi, holdInput_set hs, changed_nil]
    obtain ⟨x, o, es, hc, he⟩ := hchange
    exact ⟨ss, x, o, es, rfl, hc, Host.Outcome.next.inj (h.symm.trans he)⟩

/-- A release leaves the owner as it was, or takes the serializer from the session itself (R12, R29). -/
theorem released_eq_or (k : Nat) (o : Option Nat) :
    released k o = o ∨ (o = some k ∧ released k o = none) := by
  by_cases h : o = some k
  · exact .inr ⟨h, if_pos h⟩
  · exact .inl (if_neg h)

section ExecChange
variable {cfg : Config} {owner o : Option Nat} {i : Instr} {ss x : Session} {es : List Event}

/-- No instruction gives the serializer to a session (R182). -/
theorem ExecChange.owner_eq_or (h : ExecChange cfg owner i ss x o es) :
    o = owner ∨ (owner = some i.session ∧ o = none) := by
  cases h with
  | held => exact .inl rfl
  | posted => exact .inl rfl
  | negotiated => exact released_eq_or ..
  | rejected => exact released_eq_or ..

/-- An instruction logs only Negotiated and Status events of its own session. -/
theorem ExecChange.events_own (h : ExecChange cfg owner i ss x o es) :
    ∀ e ∈ es, (∃ v, e = .negotiated i.session v) ∨ ∃ st, e = .status i.session st := by
  cases h with
  | held => simp
  | posted => simp
  | negotiated => simp
  | rejected => simp

/-- A command, accepted, found wrong or held, leaves VER as it was (R207). -/
theorem ExecChange.ver_of_command (h : ExecChange cfg owner i ss x o es) (hcmd : i.command ≠ none) :
    x.ver = ss.ver := by
  cases h with
  | held => rfl
  | posted => rfl
  | rejected => rfl
  | negotiated _ hc => rw [hc, command_ofVersion] at hcmd; exact absurd rfl hcmd

end ExecChange

/-- Settles O31: the next state is a change of the instruction's session, and `ExecChange` bounds the owner, the log
and VER. -/
theorem frameOfEveryInstruction : Obligations.FrameOfEveryInstruction := by
  intro s t i h
  obtain ⟨ss, x, o, es, hs, hc, rfl⟩ := exec_change h
  refine ⟨changed_cfg .., changed_turns .., changed_nSessions .., hc.owner_eq_or,
    ⟨es, changed_events .., hc.events_own⟩, fun j hj => session?_changed_ne _ _ _ _ _ _ hj, fun hcmd => ?_⟩
  rw [session?_changed_self _ _ _ _ _ _ hs, hs, Option.map_some, Option.map_some, hc.ver_of_command hcmd]

end Sys2Proof.Machine
end

