-- ==== Sys2Proof/Proofs/Invariants.lean ====
section
/-! PROOF. The values every register has at reset, and the invariants of R36: they hold at every start, a reset restores
them, and every change of one session keeps them. -/

namespace Sys2Proof.Machine

/-- Settles O30: from `N_SESSIONS` on the block has no session to run the instruction at. -/
theorem execFaultsAtNoSession : Obligations.ExecFaultsAtNoSession := fun _ _ h =>
  exec_of_no_session (session?_of_ge h)

/-- Every session of a block in its initial state is cleared, with nothing at its port (R230). -/
theorem session?_initial {cfg : Config} {n : SessionCount} {k : Nat} {ss : Session}
    (h : (State.initial cfg n).session? k = some ss) : ss = Session.cleared [] :=
  List.eq_of_mem_replicate (List.mem_of_getElem? h)

/-- Settles O46: the one session of `State.reset` is a cleared one. -/
theorem resetStateHoldsTheResetValues : Obligations.ResetStateHoldsTheResetValues := by
  refine ⟨rfl, rfl, rfl, rfl, rfl, rfl, fun k ss h => ?_⟩
  rw [session?_initial h]
  exact ⟨rfl, rfl, rfl, rfl, rfl, rfl, rfl⟩

/-- A cleared session keeps the invariants where the serializer is free (R230). -/
theorem sessionOk_cleared (k : Nat) (inputs : List BusInput) : SessionOk k none (Session.cleared inputs) := by
  simp [SessionOk, Session.cleared]

/-- A block of cleared sessions, with the serializer free, has the invariants. -/
theorem inv_of_cleared {s : State} (hc : ∀ k ss, s.session? k = some ss → ∃ inputs, ss = Session.cleared inputs)
    (ho : s.serOwner = none) (hn : 1 ≤ s.nSessions) : s.Inv := by
  refine s.inv_iff.2 ⟨fun k ss hs => ?_, by simp [ho], hn⟩
  obtain ⟨inputs, rfl⟩ := hc k ss hs
  exact ho ▸ sessionOk_cleared k inputs

/-- The invariants hold in every initial state, whatever the parameters (R9, R36). -/
theorem initial_inv (cfg : Config) (n : SessionCount) : (State.initial cfg n).Inv :=
  inv_of_cleared (fun _ _ h => ⟨[], session?_initial h⟩) rfl (by simpa [State.initial, State.nSessions] using n.2)

/-- A reset restores the invariants in every block that has a session (R230). -/
theorem resetBlock_inv {s : State} (hn : 1 ≤ s.nSessions) : (resetBlock s).Inv := by
  refine inv_of_cleared (fun k ss h => ?_) rfl (by simpa using hn)
  rw [resetBlock_session?] at h
  obtain ⟨old, -, rfl⟩ := Option.map_eq_some_iff.1 h
  exact ⟨old.inputs, rfl⟩

/-- Settles O47: `State.reset` is an initial state, and its log and its turns are empty. -/
theorem invariantsHoldAtReset : Obligations.InvariantsHoldAtReset :=
  ⟨initial_inv _ _, by decide, rfl, by decide⟩

/-- Of the serializer's owner the invariants of a session only read whether it is the session itself. -/
theorem SessionOk.of_owner_iff {k : Nat} {o o' : Option Nat} {ss : Session} (h : SessionOk k o ss)
    (ho : o' = some k ↔ o = some k) : SessionOk k o' ss := by
  simpa only [SessionOk, ho] using h

/-- A busy session has no reply (R28, R36). -/
theorem SessionOk.reply_eq_none {k : Nat} {o : Option Nat} {ss : Session} (h : SessionOk k o ss)
    (hb : ss.phase ≠ .idle) : ss.reply = none := by
  obtain ⟨-, -, -, -, -, -, hreply⟩ := h
  by_contra hr
  exact hb (hreply hr).1

/-- An idle session does not own the serializer (R36). -/
theorem SessionOk.owner_ne_of_idle {k : Nat} {o : Option Nat} {ss : Session} (h : SessionOk k o ss)
    (hi : ss.phase = .idle) : o ≠ some k := by
  obtain ⟨-, -, -, howner, -⟩ := h
  simpa [hi] using howner

/-- A session whose operation has ended keeps the invariants if it gave up the serializer and its reply, where it has
one, has the frame size of its version (R12, R36). -/
theorem sessionOk_finish {k : Nat} {ss : Session} (owner : Option Nat) (st : StatusRec)
    (hr : ss.reply ≠ none → ss.reply.map List.length = ss.ver.map frameSize) :
    SessionOk k (released k owner) (ss.finish st) := by
  simpa [SessionOk, released_ne_self] using hr

/-- A reply of a snapshot that fits fills the frame (R79, R172). -/
theorem length_reply {v : Version} {B : Bytes} (pad : Byte) (hB : B.length ≤ frameSize v - 1) :
    ([0x01] ++ B ++ List.replicate (frameSize v - 1 - B.length) pad).length = frameSize v := by
  have hpos := frameSize_pos v
  simp only [List.length_append, List.length_cons, List.length_nil, List.length_replicate]
  omega

section Change
variable {cfg : Config} {owner o : Option Nat} {k : Nat} {ss x : Session} {u : Turn} {es : List Event}

/-- A change leaves the serializer with its owner, gives it to the session, or takes it from the session. -/
theorem Change.owner_cases (h : Change cfg owner k ss u x o es) :
    o = owner ∨ (owner = none ∧ o = some k) ∨ (owner = some k ∧ o = none) := by
  have hreleased : released k owner = owner ∨ (owner = none ∧ released k owner = some k) ∨
      (owner = some k ∧ released k owner = none) := (released_eq_or k owner).imp_right .inr
  cases h with
  | posted => exact .inl rfl
  | applyIssued ho => exact .inr (.inl ⟨ho, rfl⟩)
  | snapshotIssued ho => exact .inr (.inl ⟨ho, rfl⟩)
  | rejected => exact hreleased
  | negotiated => exact hreleased
  | appliedOk => exact hreleased
  | appliedErr => exact hreleased
  | replied => exact hreleased
  | tooLarge => exact hreleased

/-- A change of session `k` does not change whether another session owns the serializer. -/
theorem Change.owner_iff_of_ne (h : Change cfg owner k ss u x o es) {j : Nat} (hj : j ≠ k) :
    o = some j ↔ owner = some j := by
  rcases h.owner_cases with rfl | ⟨rfl, rfl⟩ | ⟨rfl, rfl⟩
  · rfl
  · simp [hj.symm]
  · simp [hj.symm]

/-- A change keeps the invariants of the session it changes. -/
theorem Change.sessionOk (h : Change cfg owner k ss u x o es) (hok : SessionOk k owner ss) : SessionOk k o x := by
  cases h with
  | rejected => exact sessionOk_finish _ _ (by simp)
  | negotiated => exact sessionOk_finish _ _ (by simp)
  | posted hi hin hv hP ht =>
    have hno := hok.owner_ne_of_idle hi
    simp only [payloadFits, beq_iff_eq] at hP
    simp [SessionOk, hv, hP, hno]
  | applyIssued ho hw hc hp ht =>
    have hr := hok.reply_eq_none (by simp [hw])
    obtain ⟨-, -, hbusy, -⟩ := hok
    simpa [SessionOk, hc, hp, ht, hr, hw] using hbusy
  | snapshotIssued ho hw hc =>
    have hr := hok.reply_eq_none (by simp [hw])
    obtain ⟨-, hpay, hbusy, -⟩ := hok
    simpa [SessionOk, hc, hr, hw] using And.intro hpay hbusy
  | appliedOk ha hc => exact sessionOk_finish _ _ (by simp [hok.reply_eq_none, ha])
  | appliedErr ha hc => exact sessionOk_finish _ _ (by simp [hok.reply_eq_none, ha])
  | replied ha hv hB =>
    exact sessionOk_finish _ _ fun _ => by rw [Option.map_some, length_reply _ hB, hv, Option.map_some]
  | tooLarge ha hv hB => exact sessionOk_finish _ _ (by simp [hok.reply_eq_none, ha])

end Change

/-- A change of one session keeps the invariants of the whole block. -/
theorem State.Inv.changed {s : State} (hI : s.Inv) {k : Nat} {ss x : Session} {u : Turn} {o : Option Nat}
    {es : List Event} (hs : s.session? k = some ss) (hc : Change s.cfg s.serOwner k ss u x o es) (us : List Turn) :
    (s.changed us k x o es).Inv := by
  obtain ⟨hall, howner, hn⟩ := s.inv_iff.1 hI
  refine (State.inv_iff _).2 ⟨fun j y hy => ?_, fun j hj => ?_, by simpa using hn⟩
  · by_cases hjk : j = k
    · subst hjk
      rw [session?_changed_self _ _ _ _ _ _ hs] at hy
      cases hy
      exact hc.sessionOk (hall j ss hs)
    · rw [session?_changed_ne _ _ _ _ _ _ hjk] at hy
      exact (hall j y hy).of_owner_iff (hc.owner_iff_of_ne hjk)
  · rw [changed_nSessions]
    by_cases hjk : j = k
    · exact hjk ▸ lt_of_session? hs
    · exact howner j ((hc.owner_iff_of_ne hjk).1 hj)

/-- The invariants do not read the turns to come. -/
theorem State.Inv.with_turns {s : State} (hI : s.Inv) (us : List Turn) : ({ s with turns := us } : State).Inv := hI

/-- A step keeps the invariants: it waits, resets, or changes one session. -/
theorem step_inv {s t : State} (hI : s.Inv) (h : step s = .next t) : t.Inv := by
  rcases step_change h with rfl | ⟨us, -, rfl⟩ | ⟨u, us, k, ss, x, o, es, -, hs, -, hc, rfl⟩
  · exact hI.with_turns _
  · obtain ⟨-, -, hn⟩ := hI
    exact resetBlock_inv hn
  · exact hI.changed hs hc us

/-- Settles O48: a start is a block of cleared sessions, and `step_inv` is the step. -/
theorem stepKeepsTheInvariants : Obligations.StepKeepsTheInvariants := by
  refine ⟨fun cfg ports turns hn => inv_of_cleared (fun k ss h => ?_) rfl ?_, fun s t => step_inv⟩
  · simp only [State.session?, List.getElem?_map] at h
    obtain ⟨inputs, -, rfl⟩ := Option.map_eq_some_iff.1 h
    exact ⟨inputs, rfl⟩
  · simpa [State.nSessions] using hn

end Sys2Proof.Machine
end

