-- ==== Sys2Proof/Proofs/StepHistory.lean ====
section
/-! PROOF. What a step can do to the log and to one session's PHASE and VER: read off `Change` case by case. -/

namespace Sys2Proof.Machine

/-- Settles O53: a wait appends nothing, a reset its own event, a change its events. -/
theorem logIsAppendOnly : Obligations.LogIsAppendOnly := by
  intro s t h
  rcases step_change h with rfl | ⟨us, -, rfl⟩ | ⟨u, us, k, ss, x, o, es, -, -, -, -, rfl⟩
  · exact ⟨[], (List.append_nil _).symm⟩
  · exact ⟨[.resetTaken], rfl⟩
  · exact ⟨es, rfl⟩

/-- What a step does to one session: nothing, a reset, or the change of a turn of its own. -/
theorem step_session {s t : State} {k : Nat} {ss ss' : Session} (h : step s = .next t) (hs : s.session? k = some ss)
    (ht : t.session? k = some ss') :
    ss' = ss ∨ (∃ us, s.turns = .reset :: us ∧ ss' = Session.cleared ss.inputs) ∨
      ∃ u us o es, s.turns = u :: us ∧ Change s.cfg s.serOwner k ss u ss' o es := by
  rcases step_change h with rfl | ⟨us, hu, rfl⟩ | ⟨u, us, j, sj, x, o, es, hu, hj, -, hc, rfl⟩
  · exact .inl (Option.some.inj (ht.symm.trans hs))
  · rw [resetBlock_session?, show ({ s with turns := us } : State).session? k = some ss from hs] at ht
    exact .inr (.inl ⟨us, hu, (Option.some.inj ht).symm⟩)
  · by_cases hjk : k = j
    · subst hjk
      rw [session?_changed_self _ _ _ _ _ _ hj] at ht
      cases ht
      cases hs.symm.trans hj
      exact .inr (.inr ⟨u, us, o, es, hu, hc⟩)
    · rw [session?_changed_ne _ _ _ _ _ _ hjk] at ht
      exact .inl (Option.some.inj (ht.symm.trans hs))

/-- VER after the negotiation byte `pn` (R101, R103). -/
def versionAfter (pn : Byte) : Option Version :=
  if pn = 54 then some .v1 else if pn = 62 then some .v2 else none

/-- A protocol number sets its own version. -/
theorem versionAfter_protocolNumber (v : Version) : versionAfter (protocolNumber v) = some v := by
  cases v <;> rfl

/-- A byte that is no protocol number raises UnsupportedProtocol, and leaves no version (R101, R103). -/
theorem negotiateVersion_rejected {pn : Byte} {e : Err} (h : negotiateVersion pn = .rejected e) :
    e = .unsupportedProtocol pn ∧ versionAfter pn = none := by
  by_cases h1 : pn = protocolNumber .v1
  · simp [(negotiateVersion_eq_accepted_iff pn .v1).2 h1] at h
  by_cases h2 : pn = protocolNumber .v2
  · simp [(negotiateVersion_eq_accepted_iff pn .v2).2 h2] at h
  rw [negotiateVersion, if_neg h1, if_neg h2, Verdict.rejected.injEq] at h
  exact ⟨h.symm, (if_neg h1).trans (if_neg h2)⟩

section Change
variable {cfg : Config} {owner o : Option Nat} {k : Nat} {ss x : Session} {u : Turn} {es : List Event}

/-- A change keeps PHASE or makes the transition that R24 lists for its turn. -/
theorem Change.phase_eq_or_phaseMove (h : Change cfg owner k ss u x o es) :
    x.phase = ss.phase ∨ PhaseMove k ss.phase x.phase u := by
  cases h with
  | rejected hi => exact .inl hi.symm
  | negotiated hi => exact .inl hi.symm
  | posted hi => exact .inr ⟨rfl, hi, rfl⟩
  | applyIssued _ hw => exact .inr ⟨rfl, hw, .inl rfl⟩
  | snapshotIssued _ hw => exact .inr ⟨rfl, hw, .inr rfl⟩
  | appliedOk ha => exact .inr ⟨rfl, ha, rfl⟩
  | appliedErr ha => exact .inr ⟨rfl, ha, rfl⟩
  | replied ha => exact .inr ⟨rfl, ha, rfl⟩
  | tooLarge ha => exact .inr ⟨rfl, ha, rfl⟩

/-- A change keeps VER, or it is a negotiation byte taken in IDLE, which decides VER (R23, R207). -/
theorem Change.ver_eq_or_negotiation (h : Change cfg owner k ss u x o es) :
    x.ver = ss.ver ∨
      (u = .bus k ∧ ss.phase = .idle ∧ ∃ pn rest, ss.inputs = .negotiate pn :: rest ∧ x.ver = versionAfter pn) := by
  cases h with
  | @rejected inp rest e hi hin hd =>
    cases inp with
    | negotiate pn =>
      cases hn : negotiateVersion pn with
      | accepted v => simp [decodeInput, hn] at hd
      | rejected e' =>
        obtain rfl : e' = e := by simpa [decodeInput, hn] using hd
        obtain ⟨rfl, hver⟩ := negotiateVersion_rejected hn
        exact .inr ⟨rfl, hi, pn, rest, hin, hver.symm⟩
    | frame F =>
      cases hf : decodeFor cfg.policy ss.ver F with
      | accepted c => simp [decodeInput, hf] at hd
      | rejected e' =>
        obtain rfl : e' = e := by simpa [decodeInput, hf] using hd
        rw [cleanup_eq_self (decodeFor_rejected_ne_unsupportedProtocol hf)]
        exact .inl rfl
  | @negotiated v rest hi hin =>
    exact .inr ⟨rfl, hi, protocolNumber v, rest, hin, (versionAfter_protocolNumber v).symm⟩
  | posted => exact .inl rfl
  | applyIssued => exact .inl rfl
  | snapshotIssued => exact .inl rfl
  | appliedOk => exact .inl rfl
  | appliedErr => exact .inl rfl
  | replied => exact .inl rfl
  | tooLarge => exact .inl rfl

end Change

/-- Settles O54: a reset makes the session idle, and a change of its own turn is a transition of R24. -/
theorem onlyTheListedPhaseTransitions : Obligations.OnlyTheListedPhaseTransitions := by
  intro s t k ss ss' h hs ht hne
  rcases step_session h hs ht with rfl | ⟨us, hu, rfl⟩ | ⟨u, us, o, es, hu, hc⟩
  · exact absurd rfl hne
  · exact ⟨.reset, us, hu, rfl⟩
  · exact ⟨u, us, hu, hc.phase_eq_or_phaseMove.resolve_left hne⟩

/-- Settles O55: a reset clears VER, and a change of VER is a negotiation byte taken in IDLE. -/
theorem onlyNegotiationOrResetChangesTheVersion : Obligations.OnlyNegotiationOrResetChangesTheVersion := by
  intro s t k ss ss' h hs ht hne
  rcases step_session h hs ht with rfl | ⟨us, hu, rfl⟩ | ⟨u, us, o, es, hu, hc⟩
  · exact absurd rfl hne
  · exact .inl ⟨us, hu, rfl⟩
  · obtain ⟨rfl, hi, pn, rest, hin, hver⟩ := hc.ver_eq_or_negotiation.resolve_left hne
    exact .inr ⟨us, pn, rest, hu, hi, hin, hver⟩

end Sys2Proof.Machine
end

