-- ==== Sys2Proof/Proofs/InputOrder.lean ====
section
/-! PROOF. What a step can do to the inputs at a session's port (R58, R236). -/

namespace Sys2Proof.Machine

/-- A change keeps the inputs at the port, or it is an idle session's bus turn and takes the oldest one. -/
theorem Change.inputs_eq_or_oldest_taken {cfg : Config} {owner o : Option Nat} {k : Nat} {ss x : Session} {u : Turn}
    {es : List Event} (h : Change cfg owner k ss u x o es) :
    x.inputs = ss.inputs ∨ (u = .bus k ∧ ss.phase = .idle ∧ ∃ inp, ss.inputs = inp :: x.inputs) := by
  cases h with
  | @rejected inp rest e hi hin => exact .inr ⟨rfl, hi, inp, by simpa using hin⟩
  | negotiated hi hin => exact .inr ⟨rfl, hi, _, hin⟩
  | posted hi hin => exact .inr ⟨rfl, hi, _, hin⟩
  | applyIssued => exact .inl rfl
  | snapshotIssued => exact .inl rfl
  | appliedOk => exact .inl rfl
  | appliedErr => exact .inl rfl
  | replied => exact .inl rfl
  | tooLarge => exact .inl rfl

/-- Settles O35: a reset keeps the inputs, and a change takes the oldest one or none. -/
theorem inputsAreTakenInOrder : Obligations.InputsAreTakenInOrder := by
  intro s t k ss ss' h hs ht
  rcases step_session h hs ht with rfl | ⟨us, -, rfl⟩ | ⟨u, us, o, es, hu, hc⟩
  · exact .inl rfl
  · exact .inl rfl
  · obtain hkept | ⟨rfl, hi, htaken⟩ := hc.inputs_eq_or_oldest_taken
    · exact .inl hkept
    · exact .inr ⟨hi, ⟨us, hu⟩, htaken⟩

end Sys2Proof.Machine
end

