-- ==== Sys2Proof/Proofs/Encoding.lean ====
section
/-! PROOF. The decoder inverts the encoder (R70, R78, R80), and how codes resolve to commands (R74, R75). -/

namespace Sys2Proof.Machine

@[simp] theorem wellFormed_ofCommand (policy : Policy) (v : Version) (k : Nat) (c : Tag × Bytes) :
    (Instr.ofCommand k c).wellFormed policy v = (payloadFits v c.2 && c.1.inVersion policy v) := by
  simp [Instr.wellFormed]

/-- A protocol number decodes to the negotiation of its version, whatever version the session has (R78). -/
theorem decodeInput_encode_ofVersion (policy : Policy) (ver : Option Version) (k : Nat) (v : Version) :
    decodeInput policy ver k (encode (.ofVersion k v)) = .accepted (.ofVersion k v) := by
  have hn := (negotiateVersion_eq_accepted_iff (protocolNumber v) v).2 rfl
  simp [decodeInput, hn]

/-- A command's frame decodes to the command, in a session of a version that it fits and that has it (R110). -/
theorem decodeInput_encode_ofCommand {policy : Policy} {v : Version} {c : Tag × Bytes}
    (hfit : payloadFits v c.2 = true) (hv : c.1.inVersion policy v = true) (k : Nat) :
    decodeInput policy (some v) k (encode (.ofCommand k c)) = .accepted (.ofCommand k c) := by
  have hd := (decodeFrame_eq_accepted_iff policy (commandFrame c.1 c.2) v c.1 c.2).2 ⟨rfl, hfit, hv⟩
  simp [decodeInput, decodeFor, hd]

/-- Settles O5: an instruction is a negotiation or a command, and each kind's input decodes to it. -/
theorem decodeOfEncodeIsTheInstruction : Obligations.DecodeOfEncodeIsTheInstruction := by
  intro policy v i hwf
  rcases Instr_cases i with ⟨k, w, rfl⟩ | ⟨k, c, rfl⟩
  · rw [session_ofVersion]
    exact decodeInput_encode_ofVersion policy (some v) k w
  · rw [wellFormed_ofCommand, Bool.and_eq_true] at hwf
    obtain ⟨hfit, hv⟩ := hwf
    rw [session_ofCommand]
    exact decodeInput_encode_ofCommand hfit hv k

/-- Settles O4: each written word is the encoding of its instruction, which decodes to it. -/
theorem writtenFramesDecode : Obligations.WrittenFramesDecode :=
  ⟨decodeInput_encode_ofVersion .accept none 0 .v1,
   decodeInput_encode_ofVersion .accept none 0 .v2,
   decodeOfEncodeIsTheInstruction .accept .v2 (.timeUpdate 0 (0x01 :: List.replicate 22 0)) rfl,
   decodeOfEncodeIsTheInstruction .accept .v2 (.getOptions 1 (List.replicate 23 0)) rfl,
   decodeOfEncodeIsTheInstruction .accept .v1 (.setOption1224 0 (0x01 :: List.replicate 20 0)) rfl,
   decodeOfEncodeIsTheInstruction .accept .v2 (.setOptionPirTimeout 0 (0x01 :: List.replicate 22 0)) rfl,
   decodeOfEncodeIsTheInstruction .accept .v1 (.setOptionMinDimV1 0 (0x01 :: List.replicate 20 0)) rfl,
   decodeOfEncodeIsTheInstruction .reject .v2 (.setOptionMinDimV2 0 (0x01 :: List.replicate 22 0)) rfl⟩

/-- Code 0x16 under V1 is SET_OPTION_MIN_DIM_V1 (R75). -/
@[simp] theorem resolve_0x16_v1 (policy : Policy) : resolve policy 0x16 .v1 = some .setOptionMinDimV1 := rfl

/-- Code 0x16 under V2 is SET_OPTION_PIR_TIMEOUT (R75). -/
@[simp] theorem resolve_0x16_v2 (policy : Policy) : resolve policy 0x16 .v2 = some .setOptionPirTimeout := rfl

/-- Any other code that resolves, under whichever version and policy, resolves to the one-to-one row of the map. -/
theorem oneToOneTag_of_resolve {policy : Policy} {code : Byte} {v : Version} {tag : Tag} (hc : code ≠ 0x16)
    (h : resolve policy code v = some tag) : oneToOneTag code = some tag := by
  obtain ⟨rfl, -⟩ := (resolve_eq_some_iff ..).1 h
  cases tag with
  | setOptionPirTimeout => exact absurd rfl hc
  | setOptionMinDimV1 => exact absurd rfl hc
  | _ => rfl

/-- Settles O3: the two versions share the one-to-one rows, and 0x16 is the code that is none of them. -/
theorem onlyCode0x16ResolvesByVersion : Obligations.OnlyCode0x16ResolvesByVersion := by
  refine ⟨fun policy code t1 t2 h1 h2 => ⟨fun hne => ?_, ?_⟩,
    fun policy => ⟨resolve_0x16_v2 policy, resolve_0x16_v1 policy⟩⟩
  · by_contra hc
    exact hne (Option.some.inj ((oneToOneTag_of_resolve hc h1).symm.trans (oneToOneTag_of_resolve hc h2)))
  · rintro rfl
    rw [resolve_0x16_v1, Option.some.injEq] at h1
    rw [resolve_0x16_v2, Option.some.injEq] at h2
    rw [← h1, ← h2]
    decide

/-- Settles O2: under each policy the 26 rows are looked up in the tables. -/
theorem codesResolveAsTheMapLists : Obligations.CodesResolveAsTheMapLists := by
  intro policy
  cases policy with
  | accept => decide
  | reject => decide

end Sys2Proof.Machine
end

