-- ==== Sys2Proof/Proofs/FrameReading.lean ====
section
/-! PROOF. A command at an idle session is read as its frame: what the frame's code resolves to in the session's version
decides what happens (R80, R116, R117). -/

namespace Sys2Proof.Machine

section Awaits
variable {s : State} {i : Instr} {ss : Session} {v : Version} {tag : Tag} {P : Bytes}

/-- A command puts in flight the command of its code that the session's version has (R117). -/
theorem exec_awaits_of_code_eq (hs : s.session? i.session = some ss) (ha : ss.Awaits v P)
    (hc : i.command = some (tag, P)) {tag' : Tag} (hcode : tag.code = tag'.code)
    (hv : tag'.inVersion s.cfg.policy v = true) :
    exec i s = .next (s.inFlight i.session ss tag' P) := by
  have hframe : commandFrame tag P = commandFrame tag' P := by rw [commandFrame, commandFrame, hcode]
  rw [exec_command hc, hframe]
  exact receiveFrame_awaits hs ha hv

/-- A command whose code the session's version does not resolve raises UnknownCommand with the code (R116). -/
theorem exec_awaits_of_resolve_eq_none (hs : s.session? i.session = some ss) (ha : ss.Awaits v P)
    (hc : i.command = some (tag, P)) (hr : resolve s.cfg.policy tag.code v = none) :
    exec i s =
      .next (s.closed i.session { ss with reply := none } [] (.error (.unknownCommand tag.code))) := by
  obtain ⟨hidle, hver, hP⟩ := ha
  have hpos := frameSize_pos v
  have hlen : (commandFrame tag P).length = frameSize v := by rw [length_commandFrame]; omega
  have hd : decodeFor s.cfg.policy ss.ver (commandFrame tag P) = .rejected (.unknownCommand tag.code) := by
    rw [hver]
    simp [decodeFor, decodeFrame, hlen, hr]
  rw [exec_command hc, receiveFrame_rejected hs hidle hd,
    rejectInput_closed hs (decodeFor_rejected_ne_unsupportedProtocol hd)]

end Awaits

/-- Settles O27: the commands of code 0x16 share a frame, and 0x19 resolves to none under V1 with REJECT. -/
theorem commandOfTheOtherVersionIsItsFrame : Obligations.CommandOfTheOtherVersionIsItsFrame := by
  intro s k ss v P hs ha
  refine ⟨?_, ?_, ?_⟩
  · rintro rfl
    exact exec_awaits_of_code_eq (i := .setOptionPirTimeout k P) hs ha rfl rfl rfl
  · rintro rfl
    exact exec_awaits_of_code_eq (i := .setOptionMinDimV1 k P) hs ha rfl rfl rfl
  · rintro rfl hreject
    refine exec_awaits_of_resolve_eq_none (i := .setOptionMinDimV2 k P) hs ha rfl ?_
    rw [hreject]
    rfl

end Sys2Proof.Machine
end

