-- ==== Sys2Proof/Proofs/DecodedInput.lean ====
section
/-! PROOF. What an input that decodes must have been: the encoder inverts the decoder (R100, R110, R112, R118). -/

namespace Sys2Proof.Machine

/-- A mapped verdict accepts exactly what the function makes of an accepted value. -/
theorem verdict_map_eq_accepted_iff {α β : Type} {f : α → β} {x : Verdict α} {b : β} :
    x.map f = .accepted b ↔ ∃ a, x = .accepted a ∧ f a = b := by
  cases x <;> simp

/-- A mapped verdict rejects exactly what was rejected. -/
theorem verdict_map_eq_rejected_iff {α β : Type} {f : α → β} {x : Verdict α} {e : Err} :
    x.map f = .rejected e ↔ x = .rejected e := by
  cases x <;> simp

/-- An input that decodes is a protocol number, or the frame of a command that the session's version has, with a payload
of the version's length. -/
theorem decodeInput_accepted {policy : Policy} {ver : Option Version} {k : Nat} {inp : BusInput} {i : Instr}
    (h : decodeInput policy ver k inp = .accepted i) :
    (∃ v, inp = .negotiate (protocolNumber v) ∧ i = .ofVersion k v) ∨
    (∃ v c, inp = .frame (commandFrame c.1 c.2) ∧ i = .ofCommand k c ∧ ver = some v ∧
      payloadFits v c.2 = true ∧ c.1.inVersion policy v = true) := by
  cases inp with
  | negotiate pn =>
    obtain ⟨v, hn, rfl⟩ := verdict_map_eq_accepted_iff.1 h
    obtain rfl := (negotiateVersion_eq_accepted_iff pn v).1 hn
    exact .inl ⟨v, rfl, rfl⟩
  | frame F =>
    obtain ⟨c, hd, rfl⟩ := verdict_map_eq_accepted_iff.1 h
    obtain ⟨v, hver, rfl, hfit, hv⟩ := decodeFor_accepted hd
    exact .inr ⟨v, c, rfl, rfl, hver, hfit, hv⟩

/-- Settles O6: a decoded input is a negotiation's or a command's, and each is the encoding of its instruction. -/
theorem encodeOfDecodeIsTheInput : Obligations.EncodeOfDecodeIsTheInput := by
  intro policy ver k inp i h
  rcases decodeInput_accepted h with ⟨v, rfl, rfl⟩ | ⟨v, c, rfl, rfl, rfl, hfit, hv⟩
  · refine ⟨encode_ofVersion k v, session_ofVersion k v, fun w _ => ?_, fun _ => command_ofVersion k v⟩
    simp [Instr.wellFormed]
  · refine ⟨encode_ofCommand k c, session_ofCommand k c, fun w hw => ?_, nofun⟩
    obtain rfl := Option.some.inj hw
    rw [wellFormed_ofCommand, hfit, hv, Bool.and_self]

end Sys2Proof.Machine
end

