-- ==== Sys2Proof/Proofs/NegotiationStep.lean ====
section
/-! PROOF. The negotiation step: which bytes select a version, and what an idle session makes of either kind of byte
(R100 to R105). -/

namespace Sys2Proof.Machine

/-- A byte that is neither protocol number is rejected by name (R100). -/
theorem negotiateVersion_of_ne {pn : Byte} (h1 : pn ≠ 54) (h2 : pn ≠ 62) :
    negotiateVersion pn = .rejected (.unsupportedProtocol pn) :=
  (if_neg h1).trans (if_neg h2)

/-- Settles O1: acceptance is equality with a protocol number, and any other byte is rejected. -/
theorem protocolNumbersAreExact : Obligations.ProtocolNumbersAreExact := fun pn =>
  ⟨negotiateVersion_eq_accepted_iff pn .v1, negotiateVersion_eq_accepted_iff pn .v2, negotiateVersion_of_ne⟩

@[simp] theorem closed_serOwner (s : State) (k : Nat) (ss : Session) (es : List Event) (st : StatusRec) :
    (s.closed k ss es st).serOwner = released k s.serOwner := rfl

@[simp] theorem closed_events (s : State) (k : Nat) (ss : Session) (es : List Event) (st : StatusRec) :
    (s.closed k ss es st).events = s.events ++ es ++ [.status k st] := rfl

/-- An idle session gives nothing up when it releases the serializer (R36). -/
theorem State.Inv.released_of_idle {s : State} (hI : s.Inv) {k : Nat} {ss : Session} (hs : s.session? k = some ss)
    (hi : ss.phase = .idle) : released k s.serOwner = s.serOwner :=
  if_neg (hI.owner_ne_of_idle hs hi)

section Idle
variable {s : State} {k : Nat} {ss : Session}

/-- UnsupportedProtocol clears the reply and the version, and closes the operation (R103, R201). -/
theorem rejectInput_unsupportedProtocol (hs : s.session? k = some ss) (pn : Byte) :
    rejectInput k (.unsupportedProtocol pn) s =
      s.closed k { ss with reply := none, ver := none } [] (.error (.unsupportedProtocol pn)) := by
  rw [rejectInput_eq]
  exact close_eq hs (fun x => ({ x with reply := none } : Session).cleanup (.unsupportedProtocol pn)) [] _

/-- A protocol number sets its version at an idle session (R101). -/
theorem receiveNegotiation_protocolNumber (hs : s.session? k = some ss) (hi : ss.phase = .idle) (v : Version) :
    receiveNegotiation k (protocolNumber v) s = .next
      (s.closed k { ss with reply := none, ver := some v } [.negotiated k v] (.okNegotiated v)) := by
  rw [receiveNegotiation_accepted hs hi ((negotiateVersion_eq_accepted_iff _ v).2 rfl), setVersion_closed hs]

/-- Any other byte clears the version of an idle session and raises UnsupportedProtocol (R101, R103). -/
theorem receiveNegotiation_unsupported (hs : s.session? k = some ss) (hi : ss.phase = .idle) {pn : Byte}
    (h1 : pn ≠ 54) (h2 : pn ≠ 62) :
    receiveNegotiation k pn s = .next
      (s.closed k { ss with reply := none, ver := none } [] (.error (.unsupportedProtocol pn))) := by
  rw [receiveNegotiation_rejected hs hi (negotiateVersion_of_ne h1 h2), rejectInput_unsupportedProtocol hs]

/-- With no version active an idle session drops every frame with NoSession (R118). -/
theorem receiveFrame_noSession (hs : s.session? k = some ss) (hi : ss.phase = .idle) (hv : ss.ver = none) (F : Bytes) :
    receiveFrame k F s = .next (s.closed k { ss with reply := none } [] (.error (.noSession F.length))) := by
  have hd : decodeFor s.cfg.policy ss.ver F = .rejected (.noSession F.length) := by rw [hv]; rfl
  rw [receiveFrame_rejected hs hi hd, rejectInput_closed hs (decodeFor_rejected_ne_unsupportedProtocol hd)]

end Idle

/-- Settles O12: the two protocol numbers, any other byte, and a busy session. -/
theorem negotiationFollowsItsRule : Obligations.NegotiationFollowsItsRule := by
  intro s k ss pn hs
  refine ⟨fun hi => ?_, fun hb => ?_⟩
  · split_ifs with h1 h2
    · subst h1
      exact receiveNegotiation_protocolNumber hs hi .v1
    · subst h2
      exact receiveNegotiation_protocolNumber hs hi .v2
    · exact receiveNegotiation_unsupported hs hi h1 h2
  · rw [receiveNegotiation_busy hs hb, holdInput_set hs]

/-- Settles O18: the failure closes the operation without a version, and so does every frame after it. -/
theorem failedNegotiationEndsTheSession : Obligations.FailedNegotiationEndsTheSession := by
  intro s k ss pn hs hi h1 h2
  have ht := session?_closed hs { ss with reply := none, ver := none } [] (.error (.unsupportedProtocol pn))
  refine ⟨_, _, receiveNegotiation_unsupported hs hi h1 h2, ht, rfl, rfl, fun F => ?_⟩
  refine ⟨_, _, receiveFrame_noSession ht rfl rfl F, session?_closed ht _ _ _, rfl, rfl, rfl, ?_⟩
  rw [closed_events, List.append_nil]

/-- Settles O19: the version is the protocol number's, and an idle session holds no serializer to release. -/
theorem renegotiationReplacesTheVersion : Obligations.RenegotiationReplacesTheVersion := by
  intro s k ss v hI hs hi
  refine ⟨_, _, receiveNegotiation_protocolNumber hs hi v, session?_closed hs _ _ _, rfl, ?_,
    fun j hj => session?_closed_ne hj _ _ _⟩
  rw [closed_serOwner, hI.released_of_idle hs hi]

/-- Settles O20: each instruction is the negotiation step on its version's protocol number. -/
theorem negotiationsComplete : Obligations.NegotiationsComplete := fun _ _ _ hs hi =>
  ⟨receiveNegotiation_protocolNumber hs hi .v1, receiveNegotiation_protocolNumber hs hi .v2⟩

/-- Settles O29: the input is held, and holding it writes the last place at the port. -/
theorem execHoldsAtABusySession : Obligations.ExecHoldsAtABusySession := by
  intro s i ss hs hb
  rw [exec_of_busy hs hb, holdInput_set hs]

end Sys2Proof.Machine
end

