-- ==== Sys2Proof/Proofs/TurnStep.lean ====
section
/-! PROOF. The step that each turn takes; the bus side's turn at an idle session receives the oldest input, whether it
decodes or not (R58, R101, R117). -/

namespace Sys2Proof.Machine

/-- The step of a turn that is over at once. -/
theorem step_of_takeTurn_done {s : State} {u : Turn} {us : List Turn} {o : Out} (hu : s.turns = u :: us)
    (ht : takeTurn u { s with turns := us } = .done o) : step s = o := by
  simp [step, nextMove, hu, ht]

/-- The step of a turn that runs an instruction. -/
theorem step_of_takeTurn_run {s t : State} {u : Turn} {us : List Turn} {i : Instr} (hu : s.turns = u :: us)
    (ht : takeTurn u { s with turns := us } = .run i t) : step s = exec i t := by
  simp [step, nextMove, hu, ht]

/-- With no turn to come the block waits (log entry 4). -/
theorem step_of_no_turn {s : State} (h : s.turns = []) : step s = .next s := by
  simp [step, nextMove, h]

/-- `s` after the bus side of session `k` has used its turn and taken the oldest input, with `rest` left at the port. -/
def State.inputTaken (s : State) (us : List Turn) (k : Nat) (ss : Session) (rest : List BusInput) : State :=
  { s with turns := us, sessions := s.sessions.set k { ss with inputs := rest } }

/-- The input taken, the session has its registers as before. -/
theorem session?_inputTaken {s : State} {k : Nat} {ss : Session} (hs : s.session? k = some ss) (us : List Turn)
    (rest : List BusInput) : (s.inputTaken us k ss rest).session? k = some { ss with inputs := rest } :=
  session?_changed_self s us k { ss with inputs := rest } s.serOwner [] hs

/-- The step of session `k` on an input: the negotiation step (R101) or the receive step (R117). -/
def receiveInput (k : Nat) (inp : BusInput) (s : State) : Out :=
  match inp with
  | .negotiate pn => receiveNegotiation k pn s
  | .frame F => receiveFrame k F s

/-- Every instruction is the step on the input it encodes. -/
theorem exec_eq_receiveInput (i : Instr) (s : State) : exec i s = receiveInput i.session (encode i) s := by
  rcases Instr_cases i with ⟨k, v, rfl⟩ | ⟨k, c, rfl⟩
  · rw [session_ofVersion, encode_ofVersion, exec_ofVersion, receiveInput]
  · rw [session_ofCommand, encode_ofCommand, exec_ofCommand, receiveInput]

/-- An input that does not decode raises its error at an idle session (R101, R117). -/
theorem receiveInput_rejected {s : State} {k : Nat} {ss : Session} {inp : BusInput} {e : Err}
    (hs : s.session? k = some ss) (hi : ss.phase = .idle)
    (hd : decodeInput s.cfg.policy ss.ver k inp = .rejected e) :
    receiveInput k inp s = .next (rejectInput k e s) := by
  cases inp with
  | negotiate pn => exact receiveNegotiation_rejected hs hi (verdict_map_eq_rejected_iff.1 hd)
  | frame F => exact receiveFrame_rejected hs hi (verdict_map_eq_rejected_iff.1 hd)

section Bus
variable {s : State} {k : Nat} {us : List Turn} {ss : Session} {inp : BusInput} {rest : List BusInput}
  (hu : s.turns = .bus k :: us) (hs : s.session? k = some ss) (hi : ss.phase = .idle) (hin : ss.inputs = inp :: rest)
include hu hs hi hin

/-- The bus side's turn runs the instruction that the oldest input decodes to (R58). -/
theorem step_bus_accepted {i : Instr} (hd : decodeInput s.cfg.policy ss.ver k inp = .accepted i) :
    step s = exec i (s.inputTaken us k ss rest) := by
  have hs' : ({ s with turns := us } : State).session? k = some ss := hs
  refine step_of_takeTurn_run hu ?_
  rw [takeTurn, busTurn_idle hs' hi hin, hd, popInput_set hs' hin]
  rfl

/-- The bus side's turn raises the error of an oldest input that does not decode (R101, R117). -/
theorem step_bus_rejected {e : Err} (hd : decodeInput s.cfg.policy ss.ver k inp = .rejected e) :
    step s = .next (rejectInput k e (s.inputTaken us k ss rest)) := by
  have hs' : ({ s with turns := us } : State).session? k = some ss := hs
  refine step_of_takeTurn_done hu ?_
  rw [takeTurn, busTurn_idle hs' hi hin, hd, popInput_set hs' hin]
  rfl

/-- The bus side's turn at an idle session is the step on its oldest input, whether it decodes or not. -/
theorem step_bus_eq_receiveInput : step s = receiveInput k inp (s.inputTaken us k ss rest) := by
  cases hd : decodeInput s.cfg.policy ss.ver k inp with
  | accepted i =>
    obtain ⟨hinp, hk, -⟩ := encodeOfDecodeIsTheInput _ _ _ _ _ hd
    rw [step_bus_accepted hu hs hi hin hd, exec_eq_receiveInput, hinp, hk]
  | rejected e =>
    rw [step_bus_rejected hu hs hi hin hd]
    exact (receiveInput_rejected (session?_inputTaken hs us rest) hi hd).symm

end Bus

/-- Settles O32: the turn decodes the oldest input, and the step runs what it decodes to. -/
theorem stepRunsTheDecodedInstruction : Obligations.StepRunsTheDecodedInstruction :=
  fun _ _ _ _ _ _ _ hu hs hi hin hd => step_bus_accepted hu hs hi hin hd

/-- Settles O33: every turn but the bus side's is its agent's step, and the bus side's is the step on its input. -/
theorem stepIsTheStepOfTheNextTurn : Obligations.StepIsTheStepOfTheNextTurn := by
  intro s us k r B
  refine ⟨step_of_no_turn, fun hu => step_of_takeTurn_done hu rfl, fun hu => step_of_takeTurn_done hu rfl,
    fun hu => step_of_takeTurn_done hu rfl, fun hu => step_of_takeTurn_done hu rfl, fun ss inp rest hu hs hi hin => ?_⟩
  cases inp with
  | negotiate pn => exact step_bus_eq_receiveInput hu hs hi hin
  | frame F => exact step_bus_eq_receiveInput hu hs hi hin

/-- The bus side of a busy session leaves its inputs held (R105, R117). -/
theorem busTurn_busy {s : State} {k : Nat} {ss : Session} (hs : s.session? k = some ss) (hb : ss.phase ≠ .idle) :
    busTurn k s = .done (.next s) := by
  simp [busTurn, hs, hb]

/-- Settles O34: a busy session's bus turn is over at once and changes nothing. -/
theorem busySessionHoldsItsInputs : Obligations.BusySessionHoldsItsInputs := fun s _ us _ hu hs hb =>
  step_of_takeTurn_done hu (busTurn_busy (s := { s with turns := us }) hs hb)

end Sys2Proof.Machine
end

