-- ==== Sys2Proof/Proofs/FrameCodec.lean ====
section
/-! PROOF. The frame decoder case by case (R110 to R113), the codes that resolve to no command (R116), and what a frame
of the right length decodes to (R112, R121). -/

namespace Sys2Proof.Machine

section decodeFrame
variable {policy : Policy} {v : Version} {F : Bytes}

/-- A frame of another length is a mismatch, before any byte is read (R111). -/
theorem decodeFrame_of_length_ne (hl : F.length ≠ frameSize v) :
    decodeFrame policy F v = .rejected (.frameLengthMismatch (frameSize v) F.length) :=
  if_pos hl

/-- A frame of the right length whose code resolves to no command is rejected with the code (R116). -/
theorem decodeFrame_of_resolve_eq_none (hl : F.length = frameSize v) (hr : resolve policy (codeOf F) v = none) :
    decodeFrame policy F v = .rejected (.unknownCommand (codeOf F)) := by
  simp [decodeFrame, hl, hr]

/-- A frame of the right length whose code resolves is its command with the bytes after the code (R112, R113). -/
theorem decodeFrame_of_resolve_eq_some {tag : Tag} (hl : F.length = frameSize v)
    (hr : resolve policy (codeOf F) v = some tag) : decodeFrame policy F v = .accepted (tag, payloadOf F) := by
  simp [decodeFrame, hl, hr]

end decodeFrame

/-- Settles O7: a frame that decodes is the command's code followed by the payload. -/
theorem payloadIsExtractedUnchanged : Obligations.PayloadIsExtractedUnchanged := by
  intro policy v F tag P h
  obtain ⟨rfl, hfit, -⟩ := (decodeFrame_eq_accepted_iff ..).1 h
  have hP : P.length = frameSize v - 1 := by simpa [payloadFits, payloadLength] using hfit
  have hpos := frameSize_pos v
  refine ⟨?_, hP, rfl, fun j => rfl⟩
  rw [length_commandFrame]
  omega

/-- Settles O8: with the length right, only the code decides. -/
theorem rightLengthNeverMismatches : Obligations.RightLengthNeverMismatches := by
  intro policy v b Q hl
  cases hr : resolve policy b v with
  | none => exact .inr (decodeFrame_of_resolve_eq_none hl hr)
  | some tag => exact .inl ⟨tag, decodeFrame_of_resolve_eq_some hl hr⟩

/-- The one-to-one rows of the map are all the codes up to 0x19 but 0x16 (R74). -/
theorem oneToOneTag_ne_none {code : Byte} (hle : code ≤ codeMax) (h16 : code ≠ 0x16) : oneToOneTag code ≠ none := by
  revert code
  decide

/-- The unknown codes: those above 0x19, and 0x19 under V1 with REJECT (R116). -/
theorem resolve_eq_none_iff (policy : Policy) (v : Version) (code : Byte) :
    resolve policy code v = none ↔ 0x19 < code ∨ (code = 0x19 ∧ v = .v1 ∧ policy = .reject) := by
  unfold resolve
  split_ifs with h16 h19 hle
  · subst h16
    cases v <;> simp
  · obtain ⟨rfl, rfl⟩ := h19
    cases policy <;> simp
  · have hsome := oneToOneTag_ne_none hle h16
    have hnlt : ¬ 0x19 < code := BitVec.not_lt.2 hle
    simp only [hsome, hnlt, false_or, false_iff]
    rintro ⟨hc, hv, -⟩
    exact h19 ⟨hc, hv⟩
  · simp only [true_iff]
    exact .inl (BitVec.not_le.1 hle)

/-- SET_OPTION_MIN_DIM_V2 is a command of V2, and of V1 where the policy accepts it (R76, R159). -/
theorem inVersion_setOptionMinDimV2_iff (policy : Policy) (v : Version) :
    Tag.setOptionMinDimV2.inVersion policy v = true ↔ v = .v2 ∨ policy = .accept := by
  simp [Tag.inVersion]

end Sys2Proof.Machine
end

