-- ==== Sys2Proof/Proofs/ReceiveStep.lean ====
section
/-! PROOF. The receive step (R117): where a frame is dropped and with which error, what a dropped frame leaves as it was,
and where its command is put in flight. -/

namespace Sys2Proof.Machine

section Idle
variable {s : State} {k : Nat} {ss : Session}

/-- A frame that an idle session rejects clears the reply and closes the operation with its error (R117). -/
theorem receiveFrame_of_rejected {F : Bytes} {e : Err} (hs : s.session? k = some ss) (hi : ss.phase = .idle)
    (hd : decodeFor s.cfg.policy ss.ver F = .rejected e) :
    receiveFrame k F s = .next (s.closed k { ss with reply := none } [] (.error e)) := by
  rw [receiveFrame_rejected hs hi hd, rejectInput_closed hs (decodeFor_rejected_ne_unsupportedProtocol hd)]

/-- Under an active version it is the frame decoder that reads the frame (R117). -/
theorem decodeFor_of_ver {policy : Policy} {v : Version} (hv : ss.ver = some v) (F : Bytes) :
    decodeFor policy ss.ver F = decodeFrame policy F v := by
  rw [hv]
  rfl

/-- A frame of another length than the version's is dropped with both lengths (R111). -/
theorem receiveFrame_of_length_ne {F : Bytes} {v : Version} (hs : s.session? k = some ss) (hi : ss.phase = .idle)
    (hv : ss.ver = some v) (hl : F.length ≠ frameSize v) :
    receiveFrame k F s = .next
      (s.closed k { ss with reply := none } [] (.error (.frameLengthMismatch (frameSize v) F.length))) :=
  receiveFrame_of_rejected hs hi ((decodeFor_of_ver hv F).trans (decodeFrame_of_length_ne hl))

/-- A frame of the right length whose code is unknown is dropped with the code (R116). -/
theorem receiveFrame_of_resolve_eq_none {F : Bytes} {v : Version} (hs : s.session? k = some ss)
    (hi : ss.phase = .idle) (hv : ss.ver = some v) (hl : F.length = frameSize v)
    (hr : resolve s.cfg.policy (codeOf F) v = none) :
    receiveFrame k F s = .next (s.closed k { ss with reply := none } [] (.error (.unknownCommand (codeOf F)))) :=
  receiveFrame_of_rejected hs hi ((decodeFor_of_ver hv F).trans (decodeFrame_of_resolve_eq_none hl hr))

/-- A frame of the right length whose code resolves puts its command in flight (R117). -/
theorem receiveFrame_of_resolve_eq_some {F : Bytes} {v : Version} {tag : Tag} (hs : s.session? k = some ss)
    (hi : ss.phase = .idle) (hv : ss.ver = some v) (hl : F.length = frameSize v)
    (hr : resolve s.cfg.policy (codeOf F) v = some tag) :
    receiveFrame k F s = .next (s.inFlight k ss tag (payloadOf F)) := by
  have hd := (decodeFor_of_ver hv F).trans (decodeFrame_of_resolve_eq_some hl hr)
  rw [receiveFrame_accepted hs hi hd, postCommand_inFlight hs]

/-- A code before the payload a session awaits makes a frame of the version's length (R70). -/
theorem Session.Awaits.length_cons {v : Version} {P : Bytes} (ha : ss.Awaits v P) (code : Byte) :
    (code :: P).length = frameSize v := by
  obtain ⟨-, -, hP⟩ := ha
  have hpos := frameSize_pos v
  rw [List.length_cons]
  omega

end Idle

/-- Settles O13: the version, the length and the code are examined in this order; a busy session holds the frame. -/
theorem frameFollowsTheReceiveRule : Obligations.FrameFollowsTheReceiveRule := by
  intro s k ss F hs
  refine ⟨fun hi => ?_, fun hb => ?_⟩
  · cases hv : ss.ver with
    | none => simpa only [hv] using receiveFrame_noSession hs hi hv F
    | some v =>
      by_cases hl : F.length = frameSize v
      · cases hr : resolve s.cfg.policy (F.headD 0) v with
        | none =>
          rw [receiveFrame_of_resolve_eq_none hs hi hv hl hr]
          simp only [hl, hr, hv, ne_eq, not_true_eq_false, if_false, codeOf]
        | some tag =>
          rw [receiveFrame_of_resolve_eq_some hs hi hv hl hr]
          simp only [hl, hr, ne_eq, not_true_eq_false, if_false, payloadOf]
      · simpa [hl, hv] using receiveFrame_of_length_ne hs hi hv hl
  · rw [receiveFrame_busy hs hb, holdInput_set hs]

/-- An idle session has no command in flight, so closing an operation of it writes STATUS and logs the record, beside
what the operation itself has written (R12, R36). -/
theorem State.Inv.closed_of_idle {s : State} (hI : s.Inv) {k : Nat} {ss : Session} (hs : s.session? k = some ss)
    (hi : ss.phase = .idle) (st : StatusRec) :
    s.closed k { ss with reply := none } [] st =
      { s with
        sessions := s.sessions.set k { ss with reply := none, status := some st }
        events := s.events ++ [.status k st] } := by
  obtain ⟨hcmd, hpayload, -⟩ := hI.session hs
  have hc := hcmd.1 hi
  have hp := hpayload.1 hc
  rw [closed_eq_changed, hI.released_of_idle hs hi]
  simp [State.changed, Session.finish, hi, hc, hp]

/-- Settles O14: NoSession names the frame's length only, and the invariants leave nothing else to change. -/
theorem frameWithoutVersionIsDropped : Obligations.FrameWithoutVersionIsDropped := by
  intro s k ss F G hI hs hi hv hlen
  refine ⟨?_, ?_⟩
  · rw [receiveFrame_noSession hs hi hv, hI.closed_of_idle hs hi]
  · rw [receiveFrame_noSession hs hi hv, receiveFrame_noSession hs hi hv, hlen]

/-- Settles O15: the unknown codes are those that do not resolve, and the length is right. -/
theorem unknownCodeRaisesUnknownCommand : Obligations.UnknownCodeRaisesUnknownCommand := by
  refine ⟨resolve_eq_none_iff, fun s k ss v code P hs ha hcode => ?_⟩
  have hl := ha.length_cons code
  obtain ⟨hi, hv, -⟩ := ha
  exact receiveFrame_of_resolve_eq_none hs hi hv hl ((resolve_eq_none_iff ..).2 hcode)

/-- Settles O16: 0x19 is unknown under V1 with REJECT, and the code of SET_OPTION_MIN_DIM_V2 otherwise. -/
theorem code0x19FollowsThePolicy : Obligations.Code0x19FollowsThePolicy := by
  intro s k ss v P hs ha
  split_ifs with h
  · exact unknownCodeRaisesUnknownCommand.2 s k ss v 0x19 P hs ha (.inr ⟨rfl, h⟩)
  · refine receiveFrame_awaits (tag := .setOptionMinDimV2) hs ha ((inVersion_setOptionMinDimV2_iff ..).2 ?_)
    cases v with
    | v2 => exact .inl rfl
    | v1 =>
      cases hp : s.cfg.policy with
      | accept => exact .inr rfl
      | reject => exact absurd ⟨rfl, hp⟩ h

/-- Settles O17: the operation is closed with the error, and an idle session holds no serializer to release. -/
theorem droppedFrameLeavesNoTrace : Obligations.DroppedFrameLeavesNoTrace := by
  intro s k ss F e hI hs hi hd
  refine ⟨_, _, receiveFrame_of_rejected hs hi hd, session?_closed hs _ _ _, rfl, rfl, rfl, rfl, rfl, ?_, ?_,
    fun j hj => session?_closed_ne hj _ _ _⟩
  · rw [closed_serOwner, hI.released_of_idle hs hi]
  · rw [closed_events, List.append_nil]

/-- Settles O28: a command is received as its frame, one byte longer than the payload. -/
theorem commandTrapsWithoutVersionOrLength : Obligations.CommandTrapsWithoutVersionOrLength := by
  intro s i tag P ss hc hs hi
  rw [exec_command hc, ← length_commandFrame tag P]
  refine ⟨fun hv => receiveFrame_noSession hs hi hv _, fun v hv hP => receiveFrame_of_length_ne hs hi hv ?_⟩
  rw [length_commandFrame]
  omega

end Sys2Proof.Machine
end

