-- ==== Sys2Proof/Proofs/AcceptedCommands.lean ====
section
/-! PROOF. Each command that the session's version has is put in flight at a session that awaits it (R117). A command of
both versions needs no more than the payload's length. -/

namespace Sys2Proof.Machine

/-- A command that the session's version has is put in flight with its payload as given (R80, R117). -/
theorem exec_ofCommand_awaits {s : State} {k : Nat} {ss : Session} {v : Version} {P : Bytes}
    (hs : s.session? k = some ss) (ha : ss.Awaits v P) (tag : Tag) (hv : tag.inVersion s.cfg.policy v = true) :
    exec (.ofCommand k (tag, P)) s = .next (s.inFlight k ss tag P) := by
  rw [exec_ofCommand]
  exact receiveFrame_awaits hs ha hv

/-- Settles O21: both versions have these commands. -/
theorem timeAndShowCommandsAreAccepted : Obligations.TimeAndShowCommandsAreAccepted := fun _ _ _ _ _ hs ha =>
  ⟨exec_ofCommand_awaits hs ha .timeUpdate rfl,
   exec_ofCommand_awaits hs ha .showIpAddr rfl,
   exec_ofCommand_awaits hs ha .showValue rfl,
   exec_ofCommand_awaits hs ha .showValueFormat rfl⟩

/-- Settles O22: both versions have the read command. -/
theorem getOptionsIsAccepted : Obligations.GetOptionsIsAccepted := fun _ _ _ _ _ hs ha =>
  exec_ofCommand_awaits hs ha .getOptions rfl

/-- Settles O23: both versions have the commands of codes 0x02 to 0x09. -/
theorem formatAndBlankingOptionsAreAccepted : Obligations.FormatAndBlankingOptionsAreAccepted :=
  fun _ _ _ _ _ hs ha =>
  ⟨exec_ofCommand_awaits hs ha .setOption1224 rfl,
   exec_ofCommand_awaits hs ha .setOptionBlankLead rfl,
   exec_ofCommand_awaits hs ha .setOptionScrollback rfl,
   exec_ofCommand_awaits hs ha .setOptionSuppressAcp rfl,
   exec_ofCommand_awaits hs ha .setOptionDateFormat rfl,
   exec_ofCommand_awaits hs ha .setOptionDayBlanking rfl,
   exec_ofCommand_awaits hs ha .setOptionBlankStart rfl,
   exec_ofCommand_awaits hs ha .setOptionBlankEnd rfl⟩

/-- Settles O24: both versions have the commands of codes 0x0A to 0x10. -/
theorem stepAndColourOptionsAreAccepted : Obligations.StepAndColourOptionsAreAccepted := fun _ _ _ _ _ hs ha =>
  ⟨exec_ofCommand_awaits hs ha .setOptionFadeSteps rfl,
   exec_ofCommand_awaits hs ha .setOptionScrollSteps rfl,
   exec_ofCommand_awaits hs ha .setOptionBacklightMode rfl,
   exec_ofCommand_awaits hs ha .setOptionRedChannel rfl,
   exec_ofCommand_awaits hs ha .setOptionGreenChannel rfl,
   exec_ofCommand_awaits hs ha .setOptionBlueChannel rfl,
   exec_ofCommand_awaits hs ha .setOptionCycleSpeed rfl⟩

/-- Settles O25: both versions have the commands of codes 0x12 to 0x15. -/
theorem fadeAndModeOptionsAreAccepted : Obligations.FadeAndModeOptionsAreAccepted := fun _ _ _ _ _ hs ha =>
  ⟨exec_ofCommand_awaits hs ha .setOptionFade rfl,
   exec_ofCommand_awaits hs ha .setOptionUseLdr rfl,
   exec_ofCommand_awaits hs ha .setOptionBlankMode rfl,
   exec_ofCommand_awaits hs ha .setOptionSlotsMode rfl⟩

/-- Settles O26: under the version named, each command exists. -/
theorem versionBoundOptionsAreAccepted : Obligations.VersionBoundOptionsAreAccepted := by
  intro s k ss v P hs ha
  refine ⟨?_, ?_, fun h => ?_⟩
  · rintro rfl
    exact exec_ofCommand_awaits hs ha .setOptionPirTimeout rfl
  · rintro rfl
    exact exec_ofCommand_awaits hs ha .setOptionMinDimV1 rfl
  · exact exec_ofCommand_awaits hs ha .setOptionMinDimV2 ((inVersion_setOptionMinDimV2_iff ..).2 h)

end Sys2Proof.Machine
end

