-- ==== Sys2Proof/Proofs/RequestCourse.lean ====
section
/-! PROOF. The serializer's and the collaborators' steps where they are enabled: the grant that issues a request (R182,
R183) and the answer that ends it (R173, R184). -/

namespace Sys2Proof.Machine

/-- GET_OPTIONS is the one command that is no write (R130). -/
theorem isWrite_eq_true_iff (tag : Tag) : tag.isWrite = true ↔ tag ≠ .getOptions := by
  cases tag <;> decide

/-- A write command's request carries its tag and its payload (R180). -/
theorem requestOf_of_ne_getOptions {tag : Tag} (ht : tag ≠ .getOptions) (P : Bytes) : requestOf tag P = .apply tag P :=
  if_pos ((isWrite_eq_true_iff tag).2 ht)

/-- The read command's request carries nothing (R134, R161). -/
@[simp] theorem requestOf_getOptions (P : Bytes) : requestOf .getOptions P = .snapshot := rfl

/-- The record of the write collaborator's answer to a command (R184, R185). -/
def applyRecord (tag : Tag) : ApplyResult → StatusRec
  | .ok => .okApplied tag
  | .err e => .error (.applyError tag e)

section Enabled
variable {s : State} {k : Nat} {ss : Session} (hs : s.session? k = some ss)
include hs

/-- A grant takes the free serializer for the waiting session and issues its command's request (R182). -/
theorem grant_of_waitGrant {tag : Tag} {P : Bytes} (ho : s.serOwner = none) (hw : ss.phase = .waitGrant)
    (hc : ss.cmd = some tag) (hp : ss.payload = some P) :
    grant k s = .next (issue k (requestOf tag P) { s with serOwner := some k }) := by
  simp [grant, hs, ho, hw, hc, hp]

/-- Issuing an apply request puts the session in IN_APPLY and logs the request (R183). -/
theorem issue_apply (tag : Tag) (P : Bytes) (o : Option Nat) :
    issue k (.apply tag P) { s with serOwner := o } =
      s.changed s.turns k { ss with phase := .inApply } o [.applyIssued k tag P] := by
  have hs' : ({ s with serOwner := o } : State).session? k = some ss := hs
  rw [issue, updSession_eq_set _ _ _ hs']
  rfl

/-- Issuing a snapshot request puts the session in IN_SNAPSHOT and logs the request (R183). -/
theorem issue_snapshot (o : Option Nat) :
    issue k .snapshot { s with serOwner := o } =
      s.changed s.turns k { ss with phase := .inSnapshot } o [.snapshotIssued k] := by
  have hs' : ({ s with serOwner := o } : State).session? k = some ss := hs
  rw [issue, updSession_eq_set _ _ _ hs']
  rfl

/-- The grant of a write command (R182, R183). -/
theorem grant_write {tag : Tag} {P : Bytes} (ho : s.serOwner = none) (hw : ss.phase = .waitGrant)
    (hc : ss.cmd = some tag) (hp : ss.payload = some P) (ht : tag ≠ .getOptions) :
    grant k s = .next (s.changed s.turns k { ss with phase := .inApply } (some k) [.applyIssued k tag P]) := by
  rw [grant_of_waitGrant hs ho hw hc hp, requestOf_of_ne_getOptions ht, issue_apply hs]

/-- The grant of GET_OPTIONS (R182, R183). -/
theorem grant_getOptions {P : Bytes} (ho : s.serOwner = none) (hw : ss.phase = .waitGrant)
    (hc : ss.cmd = some .getOptions) (hp : ss.payload = some P) :
    grant k s = .next (s.changed s.turns k { ss with phase := .inSnapshot } (some k) [.snapshotIssued k]) := by
  rw [grant_of_waitGrant hs ho hw hc hp, requestOf_getOptions, issue_snapshot hs]

/-- The write collaborator's answer closes the operation with its record (R184). -/
theorem applyReturned_closed (tag : Tag) (r : ApplyResult) :
    applyReturned k tag r s = s.closed k ss [.applyReturned k r] (applyRecord tag r) := by
  cases r with
  | ok =>
    rw [applyReturned_ok]
    exact close_eq hs id [.applyReturned k .ok] (.okApplied tag)
  | err e =>
    rw [applyReturned_err]
    exact close_eq hs id [.applyReturned k (.err e)] (.error (.applyError tag e))

/-- The answer to an apply request that is outstanding (R184). -/
theorem applyAck_of_inApply {tag : Tag} (ha : ss.phase = .inApply) (hc : ss.cmd = some tag) (r : ApplyResult) :
    applyAck k r s = .next (s.closed k ss [.applyReturned k r] (applyRecord tag r)) := by
  rw [← applyReturned_closed hs]
  simp [applyAck, hs, ha, hc]

/-- The answer to a snapshot request that is outstanding (R173). -/
theorem snapshotAck_of_inSnapshot {v : Version} (ha : ss.phase = .inSnapshot) (hv : ss.ver = some v) (B : Bytes) :
    snapshotAck k B s = .next (snapshotReturned k v B s) := by
  simp [snapshotAck, hs, ha, hv]

/-- A snapshot that fits closes the operation with the reply written and recorded (R79, R173). -/
theorem snapshotReturned_closed {v : Version} {B : Bytes} (hB : B.length ≤ frameSize v - 1) :
    snapshotReturned k v B s =
      s.closed k
        { ss with
          reply := some ([0x01] ++ B ++ List.replicate (frameSize v - 1 - B.length) s.cfg.replyPad) }
        [.snapshotReturned k B,
          .reply k ([0x01] ++ B ++ List.replicate (frameSize v - 1 - B.length) s.cfg.replyPad)] .okReply := by
  rw [snapshotReturned_fits (if_neg (Nat.not_lt.2 hB))]
  exact close_eq hs (fun x : Session => { x with reply := some _ }) [.snapshotReturned k B, .reply k _] .okReply

/-- A snapshot that does not fit closes the operation with its error (R171, R174). -/
theorem snapshotReturned_closed_tooLarge {v : Version} {B : Bytes} (hB : ¬ B.length ≤ frameSize v - 1) :
    snapshotReturned k v B s =
      s.closed k ss [.snapshotReturned k B] (.error (.payloadTooLarge (B.length + 1) (frameSize v))) := by
  rw [snapshotReturned_tooLarge (if_pos (Nat.not_le.1 hB))]
  exact close_eq hs (Session.cleanup _) [.snapshotReturned k B] _

end Enabled

end Sys2Proof.Machine
end

