-- ==== Sys2Proof/Proofs/CommandCourse.lean ====
section
/-! PROOF. A command from its frame to its end (R131, R132): each of the three turns changes one session, and the
changes are put together. -/

namespace Sys2Proof.Machine

/-- A command's input is its frame (R80). -/
theorem encode_of_command {i : Instr} {c : Tag × Bytes} (h : i.command = some c) :
    encode i = .frame (commandFrame c.1 c.2) := by
  rcases Instr_cases i with ⟨k, v, rfl⟩ | ⟨k, c', rfl⟩
  · rw [command_ofVersion] at h
    cases h
  · rw [command_ofCommand, Option.some.injEq] at h
    rw [encode_ofCommand, h]

/-- A well-formed command has a payload of its version's length, and its version has the command (R70, R74). -/
theorem payload_and_version_of_wellFormed {policy : Policy} {v : Version} {i : Instr} {tag : Tag} {P : Bytes}
    (hc : i.command = some (tag, P)) (hwf : i.wellFormed policy v = true) :
    P.length = frameSize v - 1 ∧ tag.inVersion policy v = true := by
  simpa [Instr.wellFormed, hc, payloadFits, payloadLength] using hwf

/-- Two changes of one session, one after the other, are one change. -/
theorem changed_changed (s : State) (k : Nat) (us us' : List Turn) (x x' : Session) (o o' : Option Nat)
    (es es' : List Event) :
    (s.changed us k x o es).changed us' k x' o' es' = s.changed us' k x' o' (es ++ es') := by
  simp [State.changed]

/-- Three steps that each change session `k`, with the serializer's owner as before at their end, come to the last
session and the events of all three. -/
theorem run_three_changes {s : State} {k : Nat} {us₁ us₂ us₃ : List Turn} {x₁ x₂ x₃ : Session}
    {o₁ o₂ o₃ : Option Nat} {es₁ es₂ es₃ : List Event}
    (h₁ : step s = .next (s.changed us₁ k x₁ o₁ es₁))
    (h₂ : step (s.changed us₁ k x₁ o₁ es₁) = .next ((s.changed us₁ k x₁ o₁ es₁).changed us₂ k x₂ o₂ es₂))
    (h₃ : step ((s.changed us₁ k x₁ o₁ es₁).changed us₂ k x₂ o₂ es₂) =
      .next (((s.changed us₁ k x₁ o₁ es₁).changed us₂ k x₂ o₂ es₂).changed us₃ k x₃ o₃ es₃))
    (ho : s.serOwner = o₃) :
    Host.Core.run Sys2Proof.core 3 s =
      .next { s with turns := us₃, sessions := s.sessions.set k x₃, events := s.events ++ (es₁ ++ (es₂ ++ es₃)) } := by
  have hrun : Host.Core.run Sys2Proof.core 3 s =
      .next (((s.changed us₁ k x₁ o₁ es₁).changed us₂ k x₂ o₂ es₂).changed us₃ k x₃ o₃ es₃) := by
    simp [Host.Core.run, Sys2Proof.core, h₁, h₂, h₃]
  rw [hrun, changed_changed, changed_changed, ← ho]
  rfl

/-- Session `ss` with a command in flight, `rest` left at its port (R117). -/
def Session.posted (ss : Session) (rest : List BusInput) (tag : Tag) (P : Bytes) : Session :=
  { ss with inputs := rest, reply := none, cmd := some tag, payload := some P, phase := .waitGrant }

section Turns
variable {s : State} {k : Nat} {ss : Session} {us : List Turn} {tag : Tag} {P : Bytes} (hs : s.session? k = some ss)
include hs

/-- The bus side's turn on a frame of a command that the session's version has (R117). -/
theorem step_bus_commandFrame {v : Version} {rest : List BusInput} (hu : s.turns = .bus k :: us)
    (ha : ss.Awaits v P) (hin : ss.inputs = .frame (commandFrame tag P) :: rest)
    (hv : tag.inVersion s.cfg.policy v = true) :
    step s = .next (s.changed us k (ss.posted rest tag P) s.serOwner []) := by
  obtain ⟨hi, hver, hP⟩ := ha
  rw [step_bus_eq_receiveInput hu hs hi hin, receiveInput,
    receiveFrame_awaits (session?_inputTaken hs us rest) ⟨hi, hver, hP⟩ hv]
  simp [State.inFlight, State.inputTaken, State.changed, Session.posted]

/-- The serializer's turn for a waiting write command (R182, R183). -/
theorem step_grant_write (hu : s.turns = .grant k :: us) (ho : s.serOwner = none) (hw : ss.phase = .waitGrant)
    (hc : ss.cmd = some tag) (hp : ss.payload = some P) (ht : tag ≠ .getOptions) :
    step s = .next (s.changed us k { ss with phase := .inApply } (some k) [.applyIssued k tag P]) :=
  (step_of_takeTurn_done hu rfl).trans (grant_write (s := { s with turns := us }) hs ho hw hc hp ht)

/-- The serializer's turn for a waiting GET_OPTIONS (R182, R183). -/
theorem step_grant_getOptions (hu : s.turns = .grant k :: us) (ho : s.serOwner = none) (hw : ss.phase = .waitGrant)
    (hc : ss.cmd = some .getOptions) (hp : ss.payload = some P) :
    step s = .next (s.changed us k { ss with phase := .inSnapshot } (some k) [.snapshotIssued k]) :=
  (step_of_takeTurn_done hu rfl).trans (grant_getOptions (s := { s with turns := us }) hs ho hw hc hp)

/-- The write collaborator's turn, its request outstanding (R184). -/
theorem step_applyAck {r : ApplyResult} (hu : s.turns = .applyAck k r :: us) (ha : ss.phase = .inApply)
    (hc : ss.cmd = some tag) :
    step s = .next (s.changed us k (ss.finish (applyRecord tag r)) (released k s.serOwner)
      [.applyReturned k r, .status k (applyRecord tag r)]) := by
  refine (step_of_takeTurn_done hu rfl).trans ?_
  rw [applyAck_of_inApply (s := { s with turns := us }) hs ha hc, closed_eq_changed]
  rfl

/-- The read collaborator's turn with a snapshot that fits, its request outstanding (R173). -/
theorem step_snapshotAck_fits {v : Version} {B R : Bytes} (hu : s.turns = .snapshotAck k B :: us)
    (ha : ss.phase = .inSnapshot) (hv : ss.ver = some v) (hB : B.length ≤ frameSize v - 1)
    (hR : R = [0x01] ++ B ++ List.replicate (frameSize v - 1 - B.length) s.cfg.replyPad) :
    step s = .next (s.changed us k (({ ss with reply := some R } : Session).finish .okReply) (released k s.serOwner)
      [.snapshotReturned k B, .reply k R, .status k .okReply]) := by
  refine (step_of_takeTurn_done hu rfl).trans ?_
  rw [snapshotAck_of_inSnapshot (s := { s with turns := us }) hs ha hv,
    snapshotReturned_closed (s := { s with turns := us }) hs hB, closed_eq_changed, hR]
  rfl

/-- The read collaborator's turn with a snapshot that does not fit, its request outstanding (R174). -/
theorem step_snapshotAck_tooLarge {v : Version} {B : Bytes} (hu : s.turns = .snapshotAck k B :: us)
    (ha : ss.phase = .inSnapshot) (hv : ss.ver = some v) (hB : ¬ B.length ≤ frameSize v - 1) :
    step s = .next (s.changed us k (ss.finish (.error (.payloadTooLarge (B.length + 1) (frameSize v))))
      (released k s.serOwner)
      [.snapshotReturned k B, .status k (.error (.payloadTooLarge (B.length + 1) (frameSize v)))]) := by
  refine (step_of_takeTurn_done hu rfl).trans ?_
  rw [snapshotAck_of_inSnapshot (s := { s with turns := us }) hs ha hv,
    snapshotReturned_closed_tooLarge (s := { s with turns := us }) hs hB, closed_eq_changed]
  rfl

end Turns

/-- Settles O59: the frame puts the command in flight, the grant issues its request, and the answer closes it. -/
theorem writeCommandRunsToItsAnswer : Obligations.WriteCommandRunsToItsAnswer := by
  intro s k ss v i tag P r rest us hu hs hi hv hin hc htag hwf ho
  obtain ⟨hP, hver⟩ := payload_and_version_of_wellFormed hc hwf
  rw [encode_of_command hc] at hin
  have hposted := step_bus_commandFrame hs hu ⟨hi, hv, hP⟩ hin hver
  have hs₁ := session?_changed_self s (.grant k :: .applyAck k r :: us) k (ss.posted rest tag P) s.serOwner [] hs
  have hgranted := step_grant_write hs₁ rfl ho rfl rfl rfl htag
  have hs₂ := session?_changed_self _ (.applyAck k r :: us) k { ss.posted rest tag P with phase := .inApply } (some k)
    [.applyIssued k tag P] hs₁
  have hanswered := step_applyAck hs₂ rfl rfl rfl
  rw [run_three_changes hposted hgranted hanswered (ho.trans (released_self k).symm)]
  cases r with
  | ok => rfl
  | err e => rfl

/-- Settles O60: the frame puts the command in flight, the grant asks for the snapshot, and the snapshot's length decides
how the answer closes it. -/
theorem getOptionsRunsToItsReply : Obligations.GetOptionsRunsToItsReply := by
  intro s k ss v P B R rest us hu hs ha hin ho hR
  obtain ⟨hi, hv, hP⟩ := ha
  have hposted := step_bus_commandFrame (tag := .getOptions) hs hu ⟨hi, hv, hP⟩ hin rfl
  have hs₁ := session?_changed_self s (.grant k :: .snapshotAck k B :: us) k (ss.posted rest .getOptions P) s.serOwner
    [] hs
  have hgranted := step_grant_getOptions hs₁ rfl ho rfl rfl rfl
  have hs₂ := session?_changed_self _ (.snapshotAck k B :: us) k
    { ss.posted rest .getOptions P with phase := .inSnapshot } (some k) [.snapshotIssued k] hs₁
  have hfree := ho.trans (released_self k).symm
  by_cases hB : B.length ≤ frameSize v - 1
  · rw [run_three_changes hposted hgranted (step_snapshotAck_fits hs₂ rfl rfl hv hB hR) hfree]
    exact congrArg Host.Outcome.next (if_pos hB).symm
  · rw [run_three_changes hposted hgranted (step_snapshotAck_tooLarge hs₂ rfl rfl hv hB) hfree]
    exact congrArg Host.Outcome.next (if_neg hB).symm

end Sys2Proof.Machine
end

