-- ==== Sys2Proof/Proofs/ReplyFrame.lean ====
section
/-! PROOF. The reply is the frame of GET_OPTIONS that carries the snapshot and the padding (R79, R170): it decodes as that
command, it has the frame size, and the read collaborator's answer is the one step that emits it (R173, R176, R177). -/

namespace Sys2Proof.Machine

/-- The reply to a snapshot that fits is the frame of GET_OPTIONS with the snapshot and the padding (R79, R172). -/
theorem encodeReply_of_fits {v : Version} {B : Bytes} (pad : Byte) (hB : B.length ≤ frameSize v - 1) :
    encodeReply pad B v =
      .accepted (commandFrame .getOptions (B ++ List.replicate (frameSize v - 1 - B.length) pad)) :=
  if_neg (Nat.not_lt.2 hB)

/-- A snapshot that fits has the payload length of the version once it is padded (R172). -/
theorem payloadFits_padded {v : Version} {B : Bytes} (pad : Byte) (hB : B.length ≤ frameSize v - 1) :
    payloadFits v (B ++ List.replicate (frameSize v - 1 - B.length) pad) = true := by
  simp [payloadFits, payloadLength, hB]

/-- Settles O9: the reply is a frame of GET_OPTIONS, of the version's length, and every version has that command. -/
theorem replyRoundTrip : Obligations.ReplyRoundTrip := fun _ pad _ _ hB =>
  ⟨_, encodeReply_of_fits pad hB, (decodeFrame_eq_accepted_iff ..).2 ⟨rfl, payloadFits_padded pad hB, rfl⟩⟩

/-- Settles O41: the snapshot's length decides how the answer closes the operation. -/
theorem snapshotAnswerBecomesTheReply : Obligations.SnapshotAnswerBecomesTheReply := by
  rintro s k ss v B R hs ha hv rfl
  rw [snapshotAck_of_inSnapshot hs ha hv]
  split_ifs with hB
  · rw [snapshotReturned_closed hs hB]
  · rw [snapshotReturned_closed_tooLarge hs hB]

/-- Only the answer of a snapshot that fits logs a reply: one of its own session, which fills the frame of the session's
version (R173, R177). -/
theorem Change.reply_mem {cfg : Config} {owner o : Option Nat} {k : Nat} {ss x : Session} {u : Turn} {es : List Event}
    (h : Change cfg owner k ss u x o es) {j : Nat} {R : Bytes} (hR : Event.reply j R ∈ es) :
    j = k ∧ ∃ v, ss.ver = some v ∧ R.length = frameSize v := by
  cases h with
  | @replied v B ha hv hB =>
    obtain ⟨rfl, rfl⟩ : j = k ∧ R = [0x01] ++ B ++ List.replicate (frameSize v - 1 - B.length) cfg.replyPad := by
      simpa using hR
    exact ⟨rfl, v, hv, length_reply _ hB⟩
  | _ => simp at hR

/-- Settles O56: a wait and a reset log no reply, and a change only one of its own session. -/
theorem emittedRepliesHaveTheFrameSize : Obligations.EmittedRepliesHaveTheFrameSize := by
  intro s t k R h hR
  rcases step_change h with rfl | ⟨us, -, rfl⟩ | ⟨u, us, j, ss, x, o, es, -, hs, -, hc, rfl⟩
  · simp at hR
  · simp at hR
  · rw [changed_events, List.drop_left] at hR
    obtain ⟨rfl, v, hv, hlen⟩ := hc.reply_mem hR
    exact ⟨ss, v, hs, hv, hlen⟩

end Sys2Proof.Machine
end

