-- ==== Sys2Proof/Proofs/SerializerSteps.lean ====
section
/-! PROOF. The guards and the effects of the serializer's grant and of the collaborators' answers, taken by themselves
(R173, R182 to R184, R232). -/

namespace Sys2Proof.Machine

/-- A grant whose guard fails changes nothing (R182, log entry 4). -/
theorem grant_of_not_enabled {s : State} {k : Nat} {ss : Session} (hs : s.session? k = some ss)
    (hg : ¬ (s.serOwner = none ∧ ss.phase = .waitGrant)) : grant k s = .next s := by
  simp only [grant, hs, if_neg hg]

/-- An apply answer outside IN_APPLY is lost (R184, R232, log entry 4). -/
theorem applyAck_of_ne_inApply {s : State} {k : Nat} {ss : Session} (hs : s.session? k = some ss)
    (ha : ss.phase ≠ .inApply) (r : ApplyResult) : applyAck k r s = .next s := by
  simp only [applyAck, hs, if_neg ha]

/-- A snapshot answer outside IN_SNAPSHOT is lost (R173, R232, log entry 4). -/
theorem snapshotAck_of_ne_inSnapshot {s : State} {k : Nat} {ss : Session} (hs : s.session? k = some ss)
    (ha : ss.phase ≠ .inSnapshot) (B : Bytes) : snapshotAck k B s = .next s := by
  simp only [snapshotAck, hs, if_neg ha]

/-- Settles O38: the class of the command decides which request the grant issues. -/
theorem grantIssuesTheRequest : Obligations.GrantIssuesTheRequest := by
  intro s k ss tag P hs ho hw hc hp
  split_ifs with ht
  · subst ht
    exact grant_getOptions hs ho hw hc hp
  · exact grant_write hs ho hw hc hp ht

/-- Settles O39: either condition breaks the guard. -/
theorem grantNeedsAFreeSerializer : Obligations.GrantNeedsAFreeSerializer := by
  intro s k ss hs hblocked
  refine grant_of_not_enabled hs fun ⟨ho, hw⟩ => ?_
  rcases hblocked with hheld | hnot
  · exact hheld ho
  · exact hnot hw

/-- Settles O40: the answer closes the operation with its record, `Ok` or not. -/
theorem applyAnswerCompletesTheWrite : Obligations.ApplyAnswerCompletesTheWrite := by
  intro s k ss tag r hs ha hc
  rw [applyAck_of_inApply hs ha hc]
  cases r with
  | ok => rfl
  | err e => rfl

/-- Settles O42: each answer has its own phase, and a reset leaves every session in IDLE. -/
theorem answersNobodyWaitsForAreLost : Obligations.AnswersNobodyWaitsForAreLost := by
  intro s k ss r B hs
  have hreset : (resetBlock s).session? k = some (Session.cleared ss.inputs) := by
    rw [resetBlock_session?, hs, Option.map_some]
  exact ⟨fun ha => applyAck_of_ne_inApply hs ha r, fun ha => snapshotAck_of_ne_inSnapshot hs ha B,
    applyAck_of_ne_inApply hreset nofun r, snapshotAck_of_ne_inSnapshot hreset nofun B⟩

end Sys2Proof.Machine
end

