-- ==== Sys2Proof/Proofs/SerialRequests.lean ====
section
/-! PROOF. One request at a time (R181, R186, R187): an outstanding request names the serializer's owner, only a grant
issues one, only its answer or a reset ends it, and the log shows the same. -/

namespace Sys2Proof.Machine

/-- A session with a request outstanding owns the serializer (R29, R36). -/
theorem SessionOk.owner_of_outstanding {k : Nat} {o : Option Nat} {ss : Session} (h : SessionOk k o ss)
    (ha : ss.phase = .inApply ∨ ss.phase = .inSnapshot) : o = some k := by
  obtain ⟨-, -, -, howner, -⟩ := h
  exact howner.1 ha

/-- Settles O51: each of the two sessions owns the serializer. -/
theorem atMostOneRequestIsOutstanding : Obligations.AtMostOneRequestIsOutstanding := by
  intro s j k sj sk hI hj hk haj hak
  have hoj := (hI.session hj).owner_of_outstanding haj
  have hok := (hI.session hk).owner_of_outstanding hak
  exact Option.some.inj (hoj.symm.trans hok)

section outstandingStep
variable (o : Option Nat) (k : Nat)

/-! An event that is neither a request nor an answer leaves what is outstanding as it is. -/

@[simp] theorem outstandingStep_negotiated (v : Version) : outstandingStep (some o) (.negotiated k v) = some o := by
  cases o <;> rfl

@[simp] theorem outstandingStep_status (st : StatusRec) : outstandingStep (some o) (.status k st) = some o := by
  cases o <;> rfl

@[simp] theorem outstandingStep_reply (R : Bytes) : outstandingStep (some o) (.reply k R) = some o := by
  cases o <;> rfl

/-- A reset abandons the outstanding request, if there is one (R232). -/
@[simp] theorem outstandingStep_resetTaken : outstandingStep (some o) .resetTaken = some none := by
  cases o <;> rfl

/-! The answer of the session whose request is outstanding ends it. -/

@[simp] theorem outstandingStep_applyReturned (r : ApplyResult) :
    outstandingStep (some (some k)) (.applyReturned k r) = some none := by
  simp [outstandingStep]

@[simp] theorem outstandingStep_snapshotReturned (B : Bytes) :
    outstandingStep (some (some k)) (.snapshotReturned k B) = some none := by
  simp [outstandingStep]

end outstandingStep

section Change
variable {cfg : Config} {owner o : Option Nat} {k : Nat} {ss x : Session} {u : Turn} {es : List Event}

/-- The events of a change take the outstanding request from the owner before to the owner after (R181). -/
theorem Change.foldl_outstandingStep (h : Change cfg owner k ss u x o es) (hok : SessionOk k owner ss) :
    es.foldl outstandingStep (some owner) = some o := by
  have hidle : ss.phase = .idle → released k owner = owner := fun hi => if_neg (hok.owner_ne_of_idle hi)
  cases h with
  | rejected hi => simp [hidle hi]
  | negotiated hi => simp [hidle hi]
  | posted => rfl
  | applyIssued ho => subst ho; rfl
  | snapshotIssued ho => subst ho; rfl
  | appliedOk ha => simp [hok.owner_of_outstanding (.inl ha)]
  | appliedErr ha => simp [hok.owner_of_outstanding (.inl ha)]
  | replied ha => simp [hok.owner_of_outstanding (.inr ha)]
  | tooLarge ha => simp [hok.owner_of_outstanding (.inr ha)]

/-- Only an answer to the session's own request changes a session with a request outstanding (R187). -/
theorem Change.answer_of_outstanding (h : Change cfg owner k ss u x o es)
    (ha : ss.phase = .inApply ∨ ss.phase = .inSnapshot) : (∃ r, u = .applyAck k r) ∨ ∃ B, u = .snapshotAck k B := by
  cases h with
  | rejected hi => simp [hi] at ha
  | negotiated hi => simp [hi] at ha
  | posted hi => simp [hi] at ha
  | applyIssued _ hw => simp [hw] at ha
  | snapshotIssued _ hw => simp [hw] at ha
  | appliedOk => exact .inl ⟨_, rfl⟩
  | appliedErr => exact .inl ⟨_, rfl⟩
  | replied => exact .inr ⟨_, rfl⟩
  | tooLarge => exact .inr ⟨_, rfl⟩

/-- Only a grant logs a request: the one event of the session that waited, which has the free serializer and its request
outstanding after (R182, R183, R186). -/
theorem Change.request_mem (h : Change cfg owner k ss u x o es) {j : Nat} {e : Event} (he : e ∈ es)
    (hreq : e = .snapshotIssued j ∨ ∃ tag P, e = .applyIssued j tag P) :
    j = k ∧ u = .grant k ∧ es = [e] ∧ owner = none ∧ o = some k ∧ ss.phase = .waitGrant ∧
      (x.phase = .inApply ∨ x.phase = .inSnapshot) := by
  cases h with
  | applyIssued ho hw =>
    obtain rfl := List.mem_singleton.1 he
    obtain rfl : _ = j := by simpa using hreq
    exact ⟨rfl, rfl, rfl, ho, rfl, hw, .inl rfl⟩
  | snapshotIssued ho hw =>
    obtain rfl := List.mem_singleton.1 he
    obtain rfl : _ = j := by simpa using hreq
    exact ⟨rfl, rfl, rfl, ho, rfl, hw, .inr rfl⟩
  | _ => rcases hreq with rfl | ⟨tag, P, rfl⟩ <;> simp at he

end Change

/-- Settles O50: a wait logs nothing, a reset abandons the request, and a change's events follow the owner. -/
theorem requestsAreNeverInterleaved : Obligations.RequestsAreNeverInterleaved := by
  intro s t hI hlog h
  rcases step_change h with rfl | ⟨us, -, rfl⟩ | ⟨u, us, k, ss, x, o, es, -, hs, -, hc, rfl⟩
  · exact hlog
  · rw [State.LogSerial, resetBlock_events, List.foldl_append, hlog]
    exact outstandingStep_resetTaken _
  · rw [State.LogSerial, changed_events, List.foldl_append, hlog]
    exact hc.foldl_outstandingStep (hI.session hs)

/-- Settles O52: a wait and a reset log no request, and a change that logs one is a grant. -/
theorem requestsComeOnlyFromGrants : Obligations.RequestsComeOnlyFromGrants := by
  intro s t k e h he hreq
  rcases step_change h with rfl | ⟨us, -, rfl⟩ | ⟨u, us, j, ss, x, o, es, hu, hs, -, hc, rfl⟩
  · simp at he
  · obtain rfl : e = .resetTaken := by simpa using he
    simp at hreq
  · rw [changed_events, List.drop_left] at he
    obtain ⟨rfl, rfl, rfl, ho, rfl, hw, hx⟩ := hc.request_mem he hreq
    exact ⟨rfl, ho, rfl, ⟨us, hu⟩, ss, x, hs, session?_changed_self _ _ _ _ _ _ hs, hw, hx⟩

/-- Settles O43: the session's own change would be its answer, and another's keeps the session and its serializer. -/
theorem unansweredRequestHangs : Obligations.UnansweredRequestHangs := by
  intro s t k ss u us hI hs ha hu hreset happly hsnapshot h
  have ho := (hI.session hs).owner_of_outstanding ha
  rcases step_change h with rfl | ⟨us', hu', rfl⟩ | ⟨u', us', j, sj, x, o, es, hu', hj, -, hc, rfl⟩
  · exact ⟨hs, ho⟩
  · rw [hu] at hu'
    exact absurd (List.cons.inj hu').1 hreset
  · obtain ⟨rfl, rfl⟩ := List.cons.inj (hu.symm.trans hu')
    by_cases hjk : k = j
    · subst hjk
      obtain rfl := Option.some.inj (hs.symm.trans hj)
      rcases hc.answer_of_outstanding ha with ⟨r, hr⟩ | ⟨B, hB⟩
      · exact absurd hr (happly r)
      · exact absurd hB (hsnapshot B)
    · exact ⟨(session?_changed_ne _ _ _ _ _ _ hjk).trans hs, (hc.owner_iff_of_ne hjk).2 ho⟩

end Sys2Proof.Machine
end

