-- ==== Sys2Proof/Proofs/SessionIsolation.lean ====
section
/-! PROOF. Sessions share nothing but the serializer (R188): a turn reaches its own session only, and what the bus side
does is decided by that session and the parameters. -/

namespace Sys2Proof.Machine

/-- Settles O57: a turn that belongs to a session is no reset, and a change writes its own session. -/
theorem sessionsAreKeptApart : Obligations.SessionsAreKeptApart := by
  intro s t h
  rcases step_change h with rfl | ⟨us, hu, rfl⟩ | ⟨u, us, i, ss, x, o, es, hu, -, hui, -, rfl⟩
  · exact ⟨rfl, rfl, fun _ _ _ _ _ _ _ => rfl⟩
  · refine ⟨resetBlock_cfg _, resetBlock_nSessions _, fun u' us' k j hu' hk _ => ?_⟩
    obtain ⟨rfl, -⟩ := List.cons.inj (hu.symm.trans hu')
    cases hk
  · refine ⟨changed_cfg .., changed_nSessions .., fun u' us' k j hu' hk hj => ?_⟩
    obtain ⟨rfl, -⟩ := List.cons.inj (hu.symm.trans hu')
    obtain rfl := Option.some.inj (hui.symm.trans hk)
    exact session?_changed_ne _ _ _ _ _ _ hj

/-- Writing back the registers a session has, the owner and the log as they are, only uses up the turn. -/
theorem changed_self {s : State} {k : Nat} {ss : Session} (hs : s.session? k = some ss) (us : List Turn) :
    s.changed us k ss s.serOwner [] = { s with turns := us } := by
  obtain ⟨hk, rfl⟩ := List.getElem?_eq_some_iff.1 hs
  simp [State.changed]

/-- The bus side's turn at a number that names no session stops the machine (R20, log entry 10). -/
theorem step_bus_of_no_session {s : State} {k : Nat} {us : List Turn} (hu : s.turns = .bus k :: us)
    (hs : s.session? k = none) : step s = .fault .noSuchSession := by
  have hs' : ({ s with turns := us } : State).session? k = none := hs
  refine step_of_takeTurn_done hu ?_
  simp only [takeTurn, busTurn, hs']

/-- The bus side of an idle session with an empty port waits (log entry 4). -/
theorem busTurn_no_input {s : State} {k : Nat} {ss : Session} (hs : s.session? k = some ss) (hi : ss.phase = .idle)
    (hin : ss.inputs = []) : busTurn k s = .done (.next s) := by
  simp only [busTurn, hs, hi, hin, if_true]

/-- An input found wrong loses the reply, and the operation is closed with what the error's clean-up leaves (R117). -/
theorem rejectInput_eq_closed {s : State} {k : Nat} {ss : Session} (hs : s.session? k = some ss) (e : Err) :
    rejectInput k e s = s.closed k (({ ss with reply := none } : Session).cleanup e) [] (.error e) := by
  rw [rejectInput_eq]
  exact close_eq hs (fun x => ({ x with reply := none } : Session).cleanup e) [] (.error e)

/-- What receiving an input makes of an idle session, and what it logs, is decided by the parameters and the session's
own registers: it is one change for every block that has them (R188). -/
theorem receiveInput_effect (cfg : Config) (k : Nat) {ss : Session} (hi : ss.phase = .idle) (inp : BusInput) :
    ∃ x es, ∀ s : State, s.cfg = cfg → s.session? k = some ss →
      ∃ o, receiveInput k inp s = .next (s.changed s.turns k x o es) := by
  cases hd : decodeInput cfg.policy ss.ver k inp with
  | rejected e =>
    refine ⟨(({ ss with reply := none } : Session).cleanup e).finish (.error e), [.status k (.error e)],
      fun s hcfg hs => ⟨released k s.serOwner, ?_⟩⟩
    rw [receiveInput_rejected hs hi (hcfg ▸ hd), rejectInput_eq_closed hs, closed_eq_changed, List.nil_append]
  | accepted i =>
    rcases decodeInput_accepted hd with ⟨v, rfl, -⟩ | ⟨v, c, rfl, -, hver, hfit, hv⟩
    · refine ⟨({ ss with reply := none, ver := some v } : Session).finish (.okNegotiated v),
        [.negotiated k v, .status k (.okNegotiated v)], fun s _ hs => ⟨released k s.serOwner, ?_⟩⟩
      rw [receiveInput, receiveNegotiation_protocolNumber hs hi v, closed_eq_changed, List.singleton_append]
    · have ha : ss.Awaits v c.2 := ⟨hi, hver, by simpa [payloadFits, payloadLength] using hfit⟩
      refine ⟨{ ss with reply := none, cmd := some c.1, payload := some c.2, phase := .waitGrant }, [],
        fun s hcfg hs => ⟨s.serOwner, ?_⟩⟩
      rw [receiveInput, receiveFrame_awaits hs ha (hcfg ▸ hv), State.inFlight, changed_nil]

/-- The bus side's turn makes one change for every block with the same parameters and the same session `k`, whatever the
other sessions, the serializer's owner and the log are (R188). -/
theorem step_bus_effect (cfg : Config) (k : Nat) (ss : Session) :
    ∃ x es, ∀ (s : State) (us : List Turn), s.cfg = cfg → s.turns = .bus k :: us → s.session? k = some ss →
      ∃ o, step s = .next (s.changed us k x o es) := by
  by_cases hi : ss.phase = .idle
  · cases hin : ss.inputs with
    | nil =>
      refine ⟨ss, [], fun s us _ hu hs => ⟨s.serOwner, ?_⟩⟩
      rw [changed_self hs]
      exact step_of_takeTurn_done hu (busTurn_no_input (s := { s with turns := us }) hs hi hin)
    | cons inp rest =>
      obtain ⟨x, es, heffect⟩ := receiveInput_effect cfg k (ss := { ss with inputs := rest }) hi inp
      refine ⟨x, es, fun s us hcfg hu hs => ?_⟩
      obtain ⟨o, ho⟩ := heffect (s.inputTaken us k ss rest) hcfg (session?_inputTaken hs us rest)
      refine ⟨o, ?_⟩
      rw [step_bus_eq_receiveInput hu hs hi hin, ho]
      simp [State.inputTaken, State.changed]
  · refine ⟨ss, [], fun s us _ hu hs => ⟨s.serOwner, ?_⟩⟩
    rw [changed_self hs]
    exact busySessionHoldsItsInputs s k us ss hu hs hi

/-- Settles O58: both steps make the one change that the session and the parameters decide. -/
theorem busStepSeesItsOwnSessionOnly : Obligations.BusStepSeesItsOwnSessionOnly := by
  intro s s' t t' k us us' hcfg hsame hu hu' h h'
  cases hs : s.session? k with
  | none =>
    rw [step_bus_of_no_session hu hs] at h
    cases h
  | some ss =>
    have hs' : s'.session? k = some ss := hsame.symm.trans hs
    obtain ⟨x, es, heffect⟩ := step_bus_effect s.cfg k ss
    obtain ⟨o, ho⟩ := heffect s us rfl hu hs
    obtain ⟨o', ho'⟩ := heffect s' us' hcfg.symm hu' hs'
    obtain rfl := Host.Outcome.next.inj (h.symm.trans ho)
    obtain rfl := Host.Outcome.next.inj (h'.symm.trans ho')
    rw [session?_changed_self _ _ _ _ _ _ hs, session?_changed_self _ _ _ _ _ _ hs', changed_events, changed_events,
      List.drop_left, List.drop_left]
    exact ⟨rfl, rfl⟩

end Sys2Proof.Machine
end

