-- ==== Sys2Proof/Proofs/Progress.lean ====
section
/-! PROOF. No step of the block stops the machine (R219): at a session of the block every agent's turn answers a next
state, whatever the phase and the answer are, and a step keeps the turns to come in range (R20). -/

namespace Sys2Proof.Machine

section Answers
variable {s : State} {k : Nat} (hk : k < s.nSessions)
include hk

/-- A grant answers, enabled or not (R182, log entries 4 and 11). -/
theorem grant_answers : ∃ t, grant k s = .next t := by
  obtain ⟨ss, hs⟩ := session?_of_lt hk
  simp only [grant, hs]
  split_ifs
  · split <;> exact ⟨_, rfl⟩
  · exact ⟨_, rfl⟩

/-- The write collaborator's answer, awaited or lost, is no stop (R184, R232). -/
theorem applyAck_answers (r : ApplyResult) : ∃ t, applyAck k r s = .next t := by
  obtain ⟨ss, hs⟩ := session?_of_lt hk
  simp only [applyAck, hs]
  split_ifs
  · split <;> exact ⟨_, rfl⟩
  · exact ⟨_, rfl⟩

/-- The read collaborator's answer, awaited or lost, is no stop (R173, R232). -/
theorem snapshotAck_answers (B : Bytes) : ∃ t, snapshotAck k B s = .next t := by
  obtain ⟨ss, hs⟩ := session?_of_lt hk
  simp only [snapshotAck, hs]
  split_ifs
  · split <;> exact ⟨_, rfl⟩
  · exact ⟨_, rfl⟩

/-- The bus side's turn answers, whatever stands at the port: its change is decided by the session (R101, R117). -/
theorem step_bus_answers {us : List Turn} (hu : s.turns = .bus k :: us) : ∃ t, step s = .next t := by
  obtain ⟨ss, hs⟩ := session?_of_lt hk
  obtain ⟨x, es, heffect⟩ := step_bus_effect s.cfg k ss
  obtain ⟨o, ho⟩ := heffect s us rfl hu hs
  exact ⟨_, ho⟩

end Answers

/-- A turn that names no session outside the block is answered (R20, R219). -/
theorem step_answers_of_turn {s : State} {u : Turn} {us : List Turn} (hu : s.turns = u :: us)
    (hr : ∀ k ∈ u.session?, k < s.nSessions) : ∃ t, step s = .next t := by
  cases u with
  | bus k => exact step_bus_answers (hr k rfl) hu
  | grant k =>
    rw [step_of_takeTurn_done hu rfl]
    exact grant_answers (s := { s with turns := us }) (hr k rfl)
  | applyAck k r =>
    rw [step_of_takeTurn_done hu rfl]
    exact applyAck_answers (s := { s with turns := us }) (hr k rfl) r
  | snapshotAck k B =>
    rw [step_of_takeTurn_done hu rfl]
    exact snapshotAck_answers (s := { s with turns := us }) (hr k rfl) B
  | reset => exact ⟨_, step_of_takeTurn_done hu rfl⟩

/-- A block whose turns name its own sessions answers every step (R219). -/
theorem step_answers {s : State} (hr : s.TurnsInRange) : ∃ t, step s = .next t := by
  cases hu : s.turns with
  | nil => exact ⟨s, step_of_no_turn hu⟩
  | cons u us => exact step_answers_of_turn hu (hr u (by simp [hu]))

/-- A step uses up the first turn and no other (R13). -/
theorem step_turns {s t : State} (h : step s = .next t) : t.turns = s.turns.tail := by
  rcases step_change h with rfl | ⟨us, hu, rfl⟩ | ⟨u, us, k, ss, x, o, es, hu, -, -, -, rfl⟩
  · rfl
  · rw [resetBlock_turns, hu, List.tail_cons]
  · rw [changed_turns, hu, List.tail_cons]

/-- A step keeps the turns to come in range: they are among those before it, and the block keeps its sessions. -/
theorem step_turnsInRange {s t : State} (hr : s.TurnsInRange) (h : step s = .next t) : t.TurnsInRange := by
  intro u hu k hk
  obtain ⟨-, hn, -⟩ := sessionsAreKeptApart s t h
  rw [step_turns h] at hu
  rw [hn]
  exact hr u (List.mem_of_mem_tail hu) k hk

/-- Settles O36: `step_answers` is the progress, and `step_turnsInRange` the invariant that carries it on. -/
theorem noStepFaultsOrRefuses : Obligations.NoStepFaultsOrRefuses := by
  intro s hr
  obtain ⟨t, ht⟩ := step_answers hr
  exact ⟨t, ht, step_turnsInRange hr ht⟩

end Sys2Proof.Machine
end

