-- ==== Sys2Proof/Proofs/StatusRecords.lean ====
section
/-! PROOF. The status records (R200 to R206): their codes, and that every record the block writes has legal fields. -/

namespace Sys2Proof.Machine

/-- Settles O10: each record's code is its constructor's, and VER has three values. -/
theorem statusAndVersionCodes : Obligations.StatusAndVersionCodes := by
  refine ⟨fun _ _ => ⟨rfl, rfl, rfl⟩, fun _ _ _ _ _ => ⟨rfl, rfl, rfl, rfl, rfl, rfl⟩, rfl, rfl, rfl, fun o => ?_⟩
  cases o with
  | none => decide
  | some v => cases v <;> decide

/-- A frame size is 22 or 24 bytes (R8). -/
theorem frameSize_eq_or (v : Version) : frameSize v = 22 ∨ frameSize v = 24 := by
  cases v with
  | v1 => exact .inl rfl
  | v2 => exact .inr rfl

/-- A refused negotiation byte is neither protocol number, as its record says (R201). -/
theorem negotiateVersion_rejected_legal {pn : Byte} {e : Err} (h : negotiateVersion pn = .rejected e) :
    (StatusRec.error e).legal = true := by
  have hne : ∀ v, pn ≠ protocolNumber v := by
    rintro v rfl
    simp [(negotiateVersion_eq_accepted_iff _ v).2 rfl] at h
  obtain ⟨rfl, -⟩ := negotiateVersion_rejected h
  simpa [StatusRec.legal, protocolNumber] using And.intro (hne .v1) (hne .v2)

/-- The record of a frame found wrong has the version's frame size, or a code from 0x19 on (R202, R203, R206). -/
theorem decodeFor_rejected_legal {policy : Policy} {ver : Option Version} {F : Bytes} {e : Err}
    (h : decodeFor policy ver F = .rejected e) : (StatusRec.error e).legal = true := by
  rcases decodeFor_rejected h with ⟨-, rfl⟩ | ⟨v, -, hl, rfl⟩ | ⟨v, -, -, hr, rfl⟩
  · rfl
  · simpa [StatusRec.legal, hl] using frameSize_eq_or v
  · have hle : 0x19 ≤ codeOf F := by
      rcases (resolve_eq_none_iff policy v (codeOf F)).1 hr with hlt | ⟨heq, -, -⟩
      · exact BitVec.le_of_lt hlt
      · exact heq ▸ BitVec.le_refl _
    simpa [StatusRec.legal] using hle

/-- The error of an input that does not decode is one R200 allows. -/
theorem decodeInput_rejected_legal {policy : Policy} {ver : Option Version} {k : Nat} {inp : BusInput} {e : Err}
    (h : decodeInput policy ver k inp = .rejected e) : (StatusRec.error e).legal = true := by
  cases inp with
  | negotiate pn => exact negotiateVersion_rejected_legal (verdict_map_eq_rejected_iff.1 h)
  | frame F => exact decodeFor_rejected_legal (verdict_map_eq_rejected_iff.1 h)

/-- A snapshot that does not fit needs more than the frame size (R174, R204). -/
theorem payloadTooLarge_legal {v : Version} {B : Bytes} (hB : frameSize v - 1 < B.length) :
    (StatusRec.error (.payloadTooLarge (B.length + 1) (frameSize v))).legal = true := by
  have hlt : frameSize v < B.length + 1 := by omega
  simpa [StatusRec.legal, hlt] using frameSize_eq_or v

/-- The command whose apply request is outstanding is a write command (R36). -/
theorem SessionOk.isWrite_of_inApply {k : Nat} {o : Option Nat} {ss : Session} (h : SessionOk k o ss)
    (ha : ss.phase = .inApply) {tag : Tag} (hc : ss.cmd = some tag) : tag.isWrite = true := by
  obtain ⟨-, -, -, -, -, happly, -⟩ := h
  simpa [hc] using happly ha

/-- What a change records: it leaves STATUS as it was, or writes a legal record there; and it logs legal events. -/
theorem Change.status_legal {cfg : Config} {owner o : Option Nat} {k : Nat} {ss x : Session} {u : Turn}
    {es : List Event} (h : Change cfg owner k ss u x o es) (hok : SessionOk k owner ss) :
    (x.status = ss.status ∨ ∃ st, x.status = some st ∧ st.legal = true) ∧ ∀ e ∈ es, e.legal = true := by
  cases h with
  | rejected hi hin hd =>
    have hst := decodeInput_rejected_legal hd
    exact ⟨.inr ⟨_, rfl, hst⟩, by simpa [Event.legal] using hst⟩
  | negotiated => exact ⟨.inr ⟨_, rfl, rfl⟩, by simp [Event.legal, StatusRec.legal]⟩
  | posted => exact ⟨.inl rfl, by simp⟩
  | applyIssued => exact ⟨.inl rfl, by simp [Event.legal]⟩
  | snapshotIssued => exact ⟨.inl rfl, by simp [Event.legal]⟩
  | appliedOk ha hc =>
    have hwrite := hok.isWrite_of_inApply ha hc
    exact ⟨.inr ⟨_, rfl, hwrite⟩, by simpa [Event.legal, StatusRec.legal] using hwrite⟩
  | appliedErr ha hc =>
    have hwrite := hok.isWrite_of_inApply ha hc
    exact ⟨.inr ⟨_, rfl, hwrite⟩, by simpa [Event.legal, StatusRec.legal] using hwrite⟩
  | replied => exact ⟨.inr ⟨_, rfl, rfl⟩, by simp [Event.legal, StatusRec.legal]⟩
  | tooLarge ha hv hB =>
    have hst := payloadTooLarge_legal hB
    exact ⟨.inr ⟨_, rfl, hst⟩, by simpa [Event.legal] using hst⟩

/-- A reset clears every STATUS register and logs no record (R230). -/
theorem State.StatusLegal.resetBlock {s : State} (hL : s.StatusLegal) : (resetBlock s).StatusLegal := by
  obtain ⟨-, hlog⟩ := hL
  refine ⟨fun ss hss st hst => ?_, fun e he => ?_⟩
  · obtain ⟨old, -, rfl⟩ := List.mem_map.1 hss
    cases hst
  · rw [resetBlock_events, List.mem_append, List.mem_singleton] at he
    rcases he with he | rfl
    · exact hlog e he
    · rfl

/-- A change that records only legal values keeps every record of the block legal. -/
theorem State.StatusLegal.changed {s : State} (hL : s.StatusLegal) {k : Nat} {ss x : Session} {o : Option Nat}
    {es : List Event} (hs : s.session? k = some ss)
    (hx : x.status = ss.status ∨ ∃ st, x.status = some st ∧ st.legal = true) (hes : ∀ e ∈ es, e.legal = true)
    (us : List Turn) : (s.changed us k x o es).StatusLegal := by
  obtain ⟨hregs, hlog⟩ := hL
  refine ⟨fun y hy st hst => ?_, fun e he => ?_⟩
  · rcases List.mem_or_eq_of_mem_set hy with hold | rfl
    · exact hregs y hold st hst
    · rcases hx with hkept | ⟨st', hwritten, hlegal⟩
      · exact hregs ss (List.mem_of_getElem? hs) st (hkept ▸ hst)
      · rw [hwritten] at hst
        exact Option.some.inj hst ▸ hlegal
  · rw [changed_events, List.mem_append] at he
    exact he.elim (hlog e) (hes e)

/-- Settles O49: a wait keeps every record, a reset clears them, and a change records legal values only. -/
theorem statusRecordsStayLegal : Obligations.StatusRecordsStayLegal := by
  intro s t hI hL h
  rcases step_change h with rfl | ⟨us, -, rfl⟩ | ⟨u, us, k, ss, x, o, es, -, hs, -, hc, rfl⟩
  · exact hL
  · exact State.StatusLegal.resetBlock (s := { s with turns := us }) hL
  · obtain ⟨hx, hes⟩ := hc.status_legal (hI.session hs)
    exact hL.changed hs hx hes us

end Sys2Proof.Machine
end

