-- ==== Sys2Proof/Proofs/ResetAndEnd.lean ====
section
/-! PROOF. What a reset clears and what it keeps (R230, R231, R236), and the end of a run: a quiescent block with
nothing at its ports has no step but a reset (R244). -/

namespace Sys2Proof.Machine

/-- A session after a reset has every register at its reset value, with the inputs that stood at its port. -/
theorem session?_resetBlock_eq_some {s : State} {k : Nat} {ss : Session} (h : (resetBlock s).session? k = some ss) :
    ∃ inputs, ss = Session.cleared inputs := by
  rw [resetBlock_session?] at h
  obtain ⟨old, -, rfl⟩ := Option.map_eq_some_iff.1 h
  exact ⟨old.inputs, rfl⟩

/-- Settles O44: the step is the reset itself, which clears each session. -/
theorem resetClearsEveryRegister : Obligations.ResetClearsEveryRegister := by
  intro s us hu
  refine ⟨resetBlock { s with turns := us }, step_of_takeTurn_done hu rfl, resetBlock_nSessions _,
    resetBlock_serOwner _, resetBlock_events _, fun k ss hss => ?_⟩
  obtain ⟨inputs, rfl⟩ := session?_resetBlock_eq_some hss
  exact ⟨rfl, rfl, rfl, rfl, rfl, rfl⟩

/-- Settles O45: clearing a session passes its inputs on. -/
theorem resetKeepsInputsAndParameters : Obligations.ResetKeepsInputsAndParameters := by
  refine fun s => ⟨resetBlock_cfg s, resetBlock_turns s, fun k ss hs => ?_⟩
  rw [resetBlock_session?, hs]
  rfl

/-- With the ports empty and the block quiescent, no turn but a reset is enabled: an idle session has no input to take,
no request to be granted, and no answer to wait for (R244, log entry 4). -/
theorem takeTurn_of_quiescent {s : State} {u : Turn} (hr : ∀ k ∈ u.session?, k < s.nSessions)
    (hin : ∀ ss ∈ s.sessions, ss.inputs = []) (hq : s.quiescent) (hu : u ≠ .reset) :
    takeTurn u s = .done (.next s) := by
  obtain ⟨hidle, -⟩ := hq
  have hsession : ∀ k ∈ u.session?, ∃ ss, s.session? k = some ss ∧ ss.phase = .idle ∧ ss.inputs = [] := by
    intro k hk
    obtain ⟨ss, hs⟩ := session?_of_lt (hr k hk)
    have hmem : ss ∈ s.sessions := List.mem_of_getElem? hs
    exact ⟨ss, hs, hidle ss hmem, hin ss hmem⟩
  cases u with
  | bus k =>
    obtain ⟨ss, hs, hi, hempty⟩ := hsession k rfl
    exact busTurn_no_input hs hi hempty
  | grant k =>
    obtain ⟨ss, hs, hi, -⟩ := hsession k rfl
    exact congrArg Move.done (grant_of_not_enabled hs (by simp [hi]))
  | applyAck k r =>
    obtain ⟨ss, hs, hi, -⟩ := hsession k rfl
    exact congrArg Move.done (applyAck_of_ne_inApply hs (by simp [hi]) r)
  | snapshotAck k B =>
    obtain ⟨ss, hs, hi, -⟩ := hsession k rfl
    exact congrArg Move.done (snapshotAck_of_ne_inSnapshot hs (by simp [hi]) B)
  | reset => exact absurd rfl hu

/-- Using up a turn leaves an ended run ended: fewer turns are to come, and none of them is a reset. -/
theorem State.ended.tail {s : State} {u : Turn} {us : List Turn} (he : s.ended) (hu : s.turns = u :: us) :
    ({ s with turns := us } : State).ended := by
  obtain ⟨⟨hin, hno⟩, hq⟩ := he
  exact ⟨⟨hin, fun hmem => hno (hu ▸ List.mem_cons_of_mem u hmem)⟩, hq⟩

/-- Settles O37: the turn is not enabled, and when the run has ended it is no reset. -/
theorem endedRunHasNoStep : Obligations.EndedRunHasNoStep := by
  intro s u us hr hu
  have hwaits : (∀ ss ∈ s.sessions, ss.inputs = []) → s.quiescent → u ≠ .reset →
      step s = .next { s with turns := us } := fun hin hq hne =>
    step_of_takeTurn_done hu (takeTurn_of_quiescent (s := { s with turns := us }) (hr u (by simp [hu])) hin hq hne)
  refine ⟨fun he => ⟨?_, he.tail hu⟩, hwaits⟩
  obtain ⟨⟨hin, hno⟩, hq⟩ := he
  exact hwaits hin hq fun hreset => hno (by simp [hu, hreset])

end Sys2Proof.Machine
end
